-- ==== Sys2Proof/Word.lean ====
section
/-! DEFINITION. The words of the block: bytes, nibbles and pin levels (spec R12, R14). -/

namespace Sys2Proof

/-- A byte is 8 bits, unsigned (R12). -/
abbrev Byte := BitVec 8

/-- A nibble is 4 bits (R12). -/
abbrev Nibble := BitVec 4

/-- A pin level is LOW or HIGH (R14). -/
inductive Level where
  | low
  | high
deriving DecidableEq, Repr, Inhabited

/-- `not l` of R14: the other level. -/
def Level.other : Level → Level
  | .low => .high
  | .high => .low

end Sys2Proof
end

