-- ==== Sys2Proof/Config.lean ====
section
/-! DEFINITION. The configuration: the constants the document fixes (spec R5), the parameters it leaves open with their
defaults (R7, R95, R96, R163), and the free values (what the transport and the panel answer, what FB held at creation).
The parameters are a record `Config` that the state carries unchanged, so a claim over all states is a claim over all
parameter values (log entries 1, 2 and 3). -/

namespace Sys2Proof

/-! ### Constants the document fixes (R5) -/

/-- `WIDTH` (R5). -/
def panelWidth : Nat := 640
/-- `HEIGHT` (R5). -/
def panelHeight : Nat := 384
/-- `ROW_BYTES` (R5): packed bytes per scan line. -/
def rowBytes : Nat := panelWidth / 2
/-- `FB_LEN` (R5): length of the packed framebuffer, 122880. Irreducible, so that no elaboration counts it out; its value is
the lemma `fbLen_eq`. -/
@[irreducible] def fbLen : Nat := panelWidth / 2 * panelHeight
/-- `NIB_BLACK` (R5, R85). -/
def nibBlack : Nibble := 0x0#4
/-- `NIB_WHITE` (R5, R85). -/
def nibWhite : Nibble := 0x3#4
/-- `WHITE_BYTE` (R5). -/
def whiteByte : Byte := 0x33#8
/-- `BLACK_BYTE` (R5). -/
def blackByte : Byte := 0x00#8
/-- `LUM_THRESHOLD` (R5, R202). -/
def lumThreshold : Nat := 64
/-- `POLL_INTERVAL_MS` (R5). -/
def pollIntervalMs : Nat := 100
/-- `RESET_HOLD_MS` (R5), as the operand byte of the DLY step. -/
def resetHoldMs : Byte := 200#8
/-- `SETTLE_MS` (R5), as the operand byte of the DLY step. -/
def settleMs : Byte := 100#8
/-- `BUS_CLOCK_HZ` (R5), about 10 MHz: the one-time bus configuration, a launch premise that no rule reads (R314). -/
def busClockHz : Nat := 10000000
/-- `BUS_MODE` (R5): as `busClockHz`. -/
def busMode : Nat := 0

/-! ### The opcode record `K.OP_*` (R94 to R96) -/

/-- The 38 opcodes by name: the 15 the block sends (R95), then the 23 it carries and never sends (R96). -/
inductive OpName where
  | panelSetting
  | powerSetting
  | powerOff
  | powerOn
  | boosterSoftStart
  | deepSleep
  | dataStartTransmission1
  | displayRefresh
  | pllControl
  | temperatureCalibration
  | vcomAndDataIntervalSetting
  | tconSetting
  | tconResolution
  | vcmDcSetting
  | flashMode
  | powerOffSequenceSetting
  | powerOnMeasure
  | dataStop
  | imageProcess
  | lutForVcom
  | lutBlue
  | lutWhite
  | lutGray1
  | lutGray2
  | lutRed0
  | lutRed1
  | lutRed2
  | lutRed3
  | lutXon
  | temperatureSensorCommand
  | temperatureSensorWrite
  | temperatureSensorRead
  | lowPowerDetection
  | spiFlashControl
  | revision
  | getStatus
  | autoMeasurementVcom
  | readVcomValue
deriving DecidableEq, Repr

/-- All 38 names, in the order of spec/opcode_table.json. -/
def OpName.all : List OpName :=
  [ .panelSetting, .powerSetting, .powerOff, .powerOn, .boosterSoftStart,
    .deepSleep, .dataStartTransmission1, .displayRefresh, .pllControl, .temperatureCalibration,
    .vcomAndDataIntervalSetting, .tconSetting, .tconResolution, .vcmDcSetting, .flashMode,
    .powerOffSequenceSetting, .powerOnMeasure, .dataStop, .imageProcess, .lutForVcom ] ++
  [ .lutBlue, .lutWhite, .lutGray1, .lutGray2, .lutRed0,
    .lutRed1, .lutRed2, .lutRed3, .lutXon, .temperatureSensorCommand,
    .temperatureSensorWrite, .temperatureSensorRead, .lowPowerDetection, .spiFlashControl, .revision,
    .getStatus, .autoMeasurementVcom, .readVcomValue ]

/-- `K.OP_*` (R94): the byte of each opcode, a parameter of the block. -/
structure Opcodes where
  panelSetting : Byte
  powerSetting : Byte
  powerOff : Byte
  powerOn : Byte
  boosterSoftStart : Byte
  deepSleep : Byte
  dataStartTransmission1 : Byte
  displayRefresh : Byte
  pllControl : Byte
  temperatureCalibration : Byte
  vcomAndDataIntervalSetting : Byte
  tconSetting : Byte
  tconResolution : Byte
  vcmDcSetting : Byte
  flashMode : Byte
  powerOffSequenceSetting : Byte
  powerOnMeasure : Byte
  dataStop : Byte
  imageProcess : Byte
  lutForVcom : Byte
  lutBlue : Byte
  lutWhite : Byte
  lutGray1 : Byte
  lutGray2 : Byte
  lutRed0 : Byte
  lutRed1 : Byte
  lutRed2 : Byte
  lutRed3 : Byte
  lutXon : Byte
  temperatureSensorCommand : Byte
  temperatureSensorWrite : Byte
  temperatureSensorRead : Byte
  lowPowerDetection : Byte
  spiFlashControl : Byte
  revision : Byte
  getStatus : Byte
  autoMeasurementVcom : Byte
  readVcomValue : Byte
deriving DecidableEq, Repr

/-- The byte the record `K` gives a name. -/
def Opcodes.byte (K : Opcodes) : OpName → Byte
  | .panelSetting => K.panelSetting
  | .powerSetting => K.powerSetting
  | .powerOff => K.powerOff
  | .powerOn => K.powerOn
  | .boosterSoftStart => K.boosterSoftStart
  | .deepSleep => K.deepSleep
  | .dataStartTransmission1 => K.dataStartTransmission1
  | .displayRefresh => K.displayRefresh
  | .pllControl => K.pllControl
  | .temperatureCalibration => K.temperatureCalibration
  | .vcomAndDataIntervalSetting => K.vcomAndDataIntervalSetting
  | .tconSetting => K.tconSetting
  | .tconResolution => K.tconResolution
  | .vcmDcSetting => K.vcmDcSetting
  | .flashMode => K.flashMode
  | .powerOffSequenceSetting => K.powerOffSequenceSetting
  | .powerOnMeasure => K.powerOnMeasure
  | .dataStop => K.dataStop
  | .imageProcess => K.imageProcess
  | .lutForVcom => K.lutForVcom
  | .lutBlue => K.lutBlue
  | .lutWhite => K.lutWhite
  | .lutGray1 => K.lutGray1
  | .lutGray2 => K.lutGray2
  | .lutRed0 => K.lutRed0
  | .lutRed1 => K.lutRed1
  | .lutRed2 => K.lutRed2
  | .lutRed3 => K.lutRed3
  | .lutXon => K.lutXon
  | .temperatureSensorCommand => K.temperatureSensorCommand
  | .temperatureSensorWrite => K.temperatureSensorWrite
  | .temperatureSensorRead => K.temperatureSensorRead
  | .lowPowerDetection => K.lowPowerDetection
  | .spiFlashControl => K.spiFlashControl
  | .revision => K.revision
  | .getStatus => K.getStatus
  | .autoMeasurementVcom => K.autoMeasurementVcom
  | .readVcomValue => K.readVcomValue

/-- The default bytes of R95 and R96, general knowledge and not the document's (PRESUMED, unsafe: log entry 1). -/
def Opcodes.standard : Opcodes where
  panelSetting := 0x00#8
  powerSetting := 0x01#8
  powerOff := 0x02#8
  powerOn := 0x04#8
  boosterSoftStart := 0x06#8
  deepSleep := 0x07#8
  dataStartTransmission1 := 0x10#8
  displayRefresh := 0x12#8
  pllControl := 0x30#8
  temperatureCalibration := 0x41#8
  vcomAndDataIntervalSetting := 0x50#8
  tconSetting := 0x60#8
  tconResolution := 0x61#8
  vcmDcSetting := 0x82#8
  flashMode := 0xE5#8
  powerOffSequenceSetting := 0x03#8
  powerOnMeasure := 0x05#8
  dataStop := 0x11#8
  imageProcess := 0x13#8
  lutForVcom := 0x20#8
  lutBlue := 0x21#8
  lutWhite := 0x22#8
  lutGray1 := 0x23#8
  lutGray2 := 0x24#8
  lutRed0 := 0x25#8
  lutRed1 := 0x26#8
  lutRed2 := 0x27#8
  lutRed3 := 0x28#8
  lutXon := 0x29#8
  temperatureSensorCommand := 0x40#8
  temperatureSensorWrite := 0x42#8
  temperatureSensorRead := 0x43#8
  lowPowerDetection := 0x51#8
  spiFlashControl := 0x65#8
  revision := 0x70#8
  getStatus := 0x71#8
  autoMeasurementVcom := 0x80#8
  readVcomValue := 0x81#8

/-! ### The payload record `K.P_*` (R163) -/

/-- `K.P_*` (R163): the payload bytes of the register commands. The resolution payload is not among them: the geometry
fixes it (R86). POWER_ON, POWER_OFF and DISPLAY_REFRESH have none. The document gives deep sleep exactly one byte. -/
structure Payloads where
  powerSetting : List Byte
  panelSetting : List Byte
  boosterSoftStart : List Byte
  pllControl : List Byte
  temperatureCalibration : List Byte
  vcomAndDataInterval : List Byte
  tconSetting : List Byte
  vcmDcSetting : List Byte
  flashMode : List Byte
  deepSleep : Byte
deriving DecidableEq, Repr

/-- The default payloads of R163, general knowledge and not the document's (PRESUMED, unsafe: log entry 1). -/
def Payloads.standard : Payloads where
  powerSetting := [0x37#8, 0x00#8]
  panelSetting := [0xCF#8, 0x08#8]
  boosterSoftStart := [0xC7#8, 0xCC#8, 0x28#8]
  pllControl := [0x3C#8]
  temperatureCalibration := [0x00#8]
  vcomAndDataInterval := [0x77#8]
  tconSetting := [0x22#8]
  vcmDcSetting := [0x1E#8]
  flashMode := [0x03#8]
  deepSleep := 0xA5#8

/-! ### The configuration record (R7) -/

/-- The parameters the document leaves open (R7). `maxPolls = none` is the unbounded poll. -/
structure Config where
  ops : Opcodes
  pay : Payloads
  dcCommandLevel : Level
  busyIdleLevel : Level
  maxPolls : Option Nat
deriving DecidableEq, Repr

/-- The defaults of R5 and R7. -/
def Config.standard : Config where
  ops := Opcodes.standard
  pay := Payloads.standard
  dcCommandLevel := .low
  busyIdleLevel := .low
  maxPolls := none

/-- `CMD_LEVEL` (R14). -/
def Config.cmdLevel (c : Config) : Level := c.dcCommandLevel
/-- `DATA_LEVEL` (R14). -/
def Config.dataLevel (c : Config) : Level := c.dcCommandLevel.other
/-- `IDLE_LEVEL` (R14). -/
def Config.idleLevel (c : Config) : Level := c.busyIdleLevel
/-- `BUSY_LEVEL` (R14). -/
def Config.busyLevel (c : Config) : Level := c.busyIdleLevel.other

/-! ### Free values -/

/-- One answer of the transport to one action (port `ans`, R32): whether it succeeded; for an `ok` read of BUSY the level
read; for a failed burst the number that fixes how long a part of it was delivered (R273). An action uses the parts that
concern it. -/
structure Answer where
  ok : Bool
  level : Level
  sent : Nat
deriving DecidableEq, Repr, Inhabited

/-- FREE VALUE: the `n`-th answer nobody has scheduled. The transport's answers and the panel's BUSY levels are oracles
under no law (R9, R40, R272), so nothing is known of it (DESIGN CHOICE, safe: log entry 2). -/
opaque Config.freeAnswer : Nat → Answer

/-- FREE VALUE: what byte `i` of FB held at creation, "unspecified contents" (R41, DESIGN CHOICE, safe: log entry 3). -/
opaque Config.fbAtCreation : Nat → Byte

/-- FREE VALUE: whether the panel received the byte of the failed `TxByte` at this place of the trace, "unknown which"
(R36, R273, DESIGN CHOICE, safe: log entry 4). -/
opaque Config.failedByteReceived : Nat → Bool

end Sys2Proof
end

