-- ==== Sys2Proof/Syntax.lean ====
section
/-! DEFINITION. The instruction syntax: one constructor per row of spec/opcode_table.json. Three formats: FRAME9, one frame
on the wire (R80); HOSTOP, one public operation (R87); UOP12, one script step (R90). -/

namespace Sys2Proof

/-- ControllerState, the values of `st` (R21). Code 3 is reserved and has no value here (R88). -/
inductive CtrlState where
  | uninitialized
  | ready
  | asleep
deriving DecidableEq, Repr

/-- The four public operations (R230). `cur` holds one of them, or Idle (R22). -/
inductive HostOp where
  | init
  | render
  | clear
  | sleep
deriving DecidableEq, Repr

/-- The two pins the block drives (R34). -/
inductive OutPin where
  | rst
  | dc
deriving DecidableEq, Repr

/-- The instructions, in the order of spec/opcode_table.json. -/
inductive Instr where
  /-- PANEL_SETTING, R165: send the command frame of this opcode. -/
  | panelSetting
  /-- POWER_SETTING, R164: send the command frame of this opcode. -/
  | powerSetting
  /-- POWER_OFF, R236: send the command frame of this opcode. -/
  | powerOff
  /-- POWER_ON, R167: send the command frame of this opcode. -/
  | powerOn
  /-- BOOSTER_SOFT_START, R166: send the command frame of this opcode. -/
  | boosterSoftStart
  /-- DEEP_SLEEP, R236: send the command frame of this opcode. -/
  | deepSleep
  /-- DATA_START_TRANSMISSION_1, R234: send the command frame of this opcode. -/
  | dataStartTransmission1
  /-- DISPLAY_REFRESH, R234: send the command frame of this opcode. -/
  | displayRefresh
  /-- PLL_CONTROL, R168: send the command frame of this opcode. -/
  | pllControl
  /-- TEMPERATURE_CALIBRATION, R169: send the command frame of this opcode. -/
  | temperatureCalibration
  /-- VCOM_AND_DATA_INTERVAL_SETTING, R170: send the command frame of this opcode. -/
  | vcomAndDataIntervalSetting
  /-- TCON_SETTING, R171: send the command frame of this opcode. -/
  | tconSetting
  /-- TCON_RESOLUTION, R175: send the command frame of this opcode. -/
  | tconResolution
  /-- VCM_DC_SETTING, R176: send the command frame of this opcode. -/
  | vcmDcSetting
  /-- FLASH_MODE, R177: send the command frame of this opcode. -/
  | flashMode
  /-- POWER_OFF_SEQUENCE_SETTING, R96: send the command frame of this opcode. -/
  | powerOffSequenceSetting
  /-- POWER_ON_MEASURE, R96: send the command frame of this opcode. -/
  | powerOnMeasure
  /-- DATA_STOP, R96: send the command frame of this opcode. -/
  | dataStop
  /-- IMAGE_PROCESS, R96: send the command frame of this opcode. -/
  | imageProcess
  /-- LUT_FOR_VCOM, R96: send the command frame of this opcode. -/
  | lutForVcom
  /-- LUT_BLUE, R96: send the command frame of this opcode. -/
  | lutBlue
  /-- LUT_WHITE, R96: send the command frame of this opcode. -/
  | lutWhite
  /-- LUT_GRAY_1, R96: send the command frame of this opcode. -/
  | lutGray1
  /-- LUT_GRAY_2, R96: send the command frame of this opcode. -/
  | lutGray2
  /-- LUT_RED_0, R96: send the command frame of this opcode. -/
  | lutRed0
  /-- LUT_RED_1, R96: send the command frame of this opcode. -/
  | lutRed1
  /-- LUT_RED_2, R96: send the command frame of this opcode. -/
  | lutRed2
  /-- LUT_RED_3, R96: send the command frame of this opcode. -/
  | lutRed3
  /-- LUT_XON, R96: send the command frame of this opcode. -/
  | lutXon
  /-- TEMPERATURE_SENSOR_COMMAND, R96: send the command frame of this opcode. -/
  | temperatureSensorCommand
  /-- TEMPERATURE_SENSOR_WRITE, R96: send the command frame of this opcode. -/
  | temperatureSensorWrite
  /-- TEMPERATURE_SENSOR_READ, R96: send the command frame of this opcode. -/
  | temperatureSensorRead
  /-- LOW_POWER_DETECTION, R96: send the command frame of this opcode. -/
  | lowPowerDetection
  /-- SPI_FLASH_CONTROL, R96: send the command frame of this opcode. -/
  | spiFlashControl
  /-- REVISION, R96: send the command frame of this opcode. -/
  | revision
  /-- GET_STATUS, R96: send the command frame of this opcode. -/
  | getStatus
  /-- AUTO_MEASUREMENT_VCOM, R96: send the command frame of this opcode. -/
  | autoMeasurementVcom
  /-- READ_VCOM_VALUE, R96: send the command frame of this opcode. -/
  | readVcomValue
  /-- DATA, R122: send the data frame of `b`. -/
  | data (b : Byte)
  /-- INITIALIZE, R233. -/
  | hostInitialize
  /-- RENDER, R234; the bitmap is at the port `bm`. -/
  | hostRender
  /-- CLEAR, R235. -/
  | hostClear
  /-- SLEEP, R236. -/
  | hostSleep
  /-- END, R249. -/
  | endOp
  /-- CMD, R242. -/
  | cmd (a : Byte)
  /-- DAT, R247. -/
  | dat (a : Byte)
  /-- BURST, R243. -/
  | burst
  /-- WAIT, R248. -/
  | wait
  /-- DLY, R241; milliseconds. -/
  | dly (a : Byte)
  /-- PIN, R240. -/
  | pin (p : OutPin) (l : Level)
  /-- PACK, R244. -/
  | pack
  /-- FILL, R245. -/
  | fill (a : Byte)
  /-- SETST, R246. -/
  | setst (s : CtrlState)
deriving DecidableEq, Repr

/-- The FRAME9 instruction of an opcode name. -/
def Instr.command : OpName → Instr
  | .panelSetting => .panelSetting
  | .powerSetting => .powerSetting
  | .powerOff => .powerOff
  | .powerOn => .powerOn
  | .boosterSoftStart => .boosterSoftStart
  | .deepSleep => .deepSleep
  | .dataStartTransmission1 => .dataStartTransmission1
  | .displayRefresh => .displayRefresh
  | .pllControl => .pllControl
  | .temperatureCalibration => .temperatureCalibration
  | .vcomAndDataIntervalSetting => .vcomAndDataIntervalSetting
  | .tconSetting => .tconSetting
  | .tconResolution => .tconResolution
  | .vcmDcSetting => .vcmDcSetting
  | .flashMode => .flashMode
  | .powerOffSequenceSetting => .powerOffSequenceSetting
  | .powerOnMeasure => .powerOnMeasure
  | .dataStop => .dataStop
  | .imageProcess => .imageProcess
  | .lutForVcom => .lutForVcom
  | .lutBlue => .lutBlue
  | .lutWhite => .lutWhite
  | .lutGray1 => .lutGray1
  | .lutGray2 => .lutGray2
  | .lutRed0 => .lutRed0
  | .lutRed1 => .lutRed1
  | .lutRed2 => .lutRed2
  | .lutRed3 => .lutRed3
  | .lutXon => .lutXon
  | .temperatureSensorCommand => .temperatureSensorCommand
  | .temperatureSensorWrite => .temperatureSensorWrite
  | .temperatureSensorRead => .temperatureSensorRead
  | .lowPowerDetection => .lowPowerDetection
  | .spiFlashControl => .spiFlashControl
  | .revision => .revision
  | .getStatus => .getStatus
  | .autoMeasurementVcom => .autoMeasurementVcom
  | .readVcomValue => .readVcomValue

/-- The HOSTOP instruction of a public operation. -/
def Instr.ofHostOp : HostOp → Instr
  | .init => .hostInitialize
  | .render => .hostRender
  | .clear => .hostClear
  | .sleep => .hostSleep

/-- A word as it stands where the machine fetches it. Host codes are 2 bits wide (R87), script steps 12 (R90), frames
9 (R80). The three formats are separate spaces, so a word carries its format (DESIGN CHOICE, safe: log entry 5). -/
inductive CodeWord where
  | host (w : BitVec 2)
  | uop (w : BitVec 12)
  | frame (w : BitVec 9)
deriving DecidableEq, Repr

end Sys2Proof
end

