-- ==== Sys2Proof/WellFormed.lean ====
section
/-! DEFINITION. What well-formed means. The operands of `Instr` are typed, so every instruction term is well-formed as it
stands; what can be ill-formed is the configuration (R7, R93) and a script (R33, R91, R97, R249). -/

namespace Sys2Proof

/-- R93: "the map from the symbolic names of rules R95 and R96 to bytes is injective". -/
def Opcodes.distinct (K : Opcodes) : Bool := decide ((OpName.all.map K.byte).Nodup)

/-- R93 and R7: distinct opcodes, and `MAX_POLLS` is `none` or `some m` with `m >= 1`. -/
def Config.wellFormed (c : Config) : Bool := c.ops.distinct && c.maxPolls != some 0

/-- Which instructions may stand in a script: the ten step kinds of R90, PIN with RST only (R91), DLY with 100 or 200
only (R33). A frame and a host operation are no script steps. -/
def Instr.scriptStep : Instr → Bool
  | .endOp | .cmd _ | .dat _ | .burst | .wait | .pack | .fill _ | .setst _ => true
  | .dly n => n == 100#8 || n == 200#8
  | .pin p _ => p == .rst
  | _ => false

/-- R249: "Every script has exactly one END, as its last step"; every step of it is one a script may hold. -/
def scriptWellFormed : List Instr → Bool
  | [] => false
  | [i] => i == .endOp
  | i :: rest => i.scriptStep && i != .endOp && scriptWellFormed rest

end Sys2Proof
end

