-- ==== Sys2Proof/Decode.lean ====
section
/-! DEFINITION. Decoding a word to an instruction, rejecting by name (spec R80, R87, R88, R90, R95 to R97), and after it the
encoder written from the same tables. -/

namespace Sys2Proof

/-- Why a word is no instruction (R97). -/
inductive DecodeError where
  /-- UOP12 `k` = 10 to 15. -/
  | reservedKind
  /-- UOP12: a nonzero operand bit where the kind has none (END, BURST, WAIT, PACK; SETST bits 7:2). -/
  | operandNotZero
  /-- PIN with `a` having bits other than 4 and 0 set. -/
  | pinBits
  /-- State code 3. -/
  | reservedState
  /-- FRAME9: a command byte that is not an opcode of R95 or R96. -/
  | unknownOpcode
deriving DecidableEq, Repr

/-- The state of a 2-bit state code (R88); 3 is reserved. -/
def ctrlStateOfCode (c : BitVec 2) : Option CtrlState :=
  if c = 0#2 then some .uninitialized else if c = 1#2 then some .ready else if c = 2#2 then some .asleep else none

/-- The 2-bit state code (R88). -/
def CtrlState.code : CtrlState → BitVec 2
  | .uninitialized => 0#2
  | .ready => 1#2
  | .asleep => 2#2

/-- The opcode name of a command byte (R92, R95, R96). -/
def opNameOf (K : Opcodes) (b : Byte) : Option OpName := OpName.all.find? fun n => K.byte n == b

/-- HOSTOP (R87): all four codes are operations. -/
def decodeHost (w : BitVec 2) : Instr :=
  if w = 0#2 then .hostInitialize else if w = 1#2 then .hostRender else if w = 2#2 then .hostClear else .hostSleep

/-- An instruction without operand: its operand byte must be 0 (R90). -/
def noOperand (a : Byte) (i : Instr) : Except DecodeError Instr :=
  if a = 0#8 then .ok i else .error .operandNotZero

/-- PIN (R90): `a[4]` is the pin (0 = RST, 1 = DC), `a[0]` the level (0 = LOW, 1 = HIGH), other bits 0. -/
def decodePin (a : Byte) : Except DecodeError Instr :=
  if a &&& 0xEE#8 = 0#8 then
    .ok (.pin (if a.getLsbD 4 then .dc else .rst) (if a.getLsbD 0 then .high else .low))
  else .error .pinBits

/-- SETST (R90): `a[1:0]` is the state code, other bits 0. -/
def decodeSetst (a : Byte) : Except DecodeError Instr :=
  if a &&& 0xFC#8 = 0#8 then
    match ctrlStateOfCode (a.extractLsb' 0 2) with
    | some s => .ok (.setst s)
    | none => .error .reservedState
  else .error .operandNotZero

/-- The step of kind `k` with operand byte `a` (R90); kinds 10 to 15 are reserved. -/
def decodeKind (a : Byte) : Nat → Except DecodeError Instr
  | 0 => noOperand a .endOp
  | 1 => .ok (.cmd a)
  | 2 => .ok (.dat a)
  | 3 => noOperand a .burst
  | 4 => noOperand a .wait
  | 5 => .ok (.dly a)
  | 6 => decodePin a
  | 7 => noOperand a .pack
  | 8 => .ok (.fill a)
  | 9 => decodeSetst a
  | _ => .error .reservedKind

/-- UOP12 (R90): bits 11:8 are the kind, bits 7:0 the operand. -/
def decodeUop (w : BitVec 12) : Except DecodeError Instr := decodeKind (w.extractLsb' 0 8) (w.extractLsb' 8 4).toNat

/-- A command frame (R92): the byte is looked up among the 38 opcodes. -/
def decodeCommand (K : Opcodes) (b : Byte) : Except DecodeError Instr :=
  match opNameOf K b with
  | some n => .ok (.command n)
  | none => .error .unknownOpcode

/-- FRAME9 (R80, R92): bit 8 is `sel`, bits 7:0 the byte. -/
def decodeFrame (K : Opcodes) (w : BitVec 9) : Except DecodeError Instr :=
  if w.getLsbD 8 then .ok (.data (w.extractLsb' 0 8)) else decodeCommand K (w.extractLsb' 0 8)

/-- The decoder, total on every word of every format. -/
def decode (K : Opcodes) : CodeWord → Except DecodeError Instr
  | .host w => .ok (decodeHost w)
  | .uop w => decodeUop w
  | .frame w => decodeFrame K w

/-! ### The encoder -/

/-- UOP12 with kind `k` and operand `a` (R90). -/
def uopWord (k : BitVec 4) (a : Byte) : CodeWord := .uop (k ++ a)

/-- The command frame of opcode byte `b` (R80). -/
def commandFrame (b : Byte) : CodeWord := .frame (0#1 ++ b)

/-- The data frame of byte `b` (R80). -/
def dataFrame (b : Byte) : CodeWord := .frame (1#1 ++ b)

/-- The operand byte of PIN (R90). -/
def pinOperand : OutPin → Level → Byte
  | .rst, .low => 0x00#8
  | .rst, .high => 0x01#8
  | .dc, .low => 0x10#8
  | .dc, .high => 0x11#8

/-- The word of an instruction (R80, R87, R90). -/
def encode (K : Opcodes) : Instr → CodeWord
  | .panelSetting => commandFrame K.panelSetting
  | .powerSetting => commandFrame K.powerSetting
  | .powerOff => commandFrame K.powerOff
  | .powerOn => commandFrame K.powerOn
  | .boosterSoftStart => commandFrame K.boosterSoftStart
  | .deepSleep => commandFrame K.deepSleep
  | .dataStartTransmission1 => commandFrame K.dataStartTransmission1
  | .displayRefresh => commandFrame K.displayRefresh
  | .pllControl => commandFrame K.pllControl
  | .temperatureCalibration => commandFrame K.temperatureCalibration
  | .vcomAndDataIntervalSetting => commandFrame K.vcomAndDataIntervalSetting
  | .tconSetting => commandFrame K.tconSetting
  | .tconResolution => commandFrame K.tconResolution
  | .vcmDcSetting => commandFrame K.vcmDcSetting
  | .flashMode => commandFrame K.flashMode
  | .powerOffSequenceSetting => commandFrame K.powerOffSequenceSetting
  | .powerOnMeasure => commandFrame K.powerOnMeasure
  | .dataStop => commandFrame K.dataStop
  | .imageProcess => commandFrame K.imageProcess
  | .lutForVcom => commandFrame K.lutForVcom
  | .lutBlue => commandFrame K.lutBlue
  | .lutWhite => commandFrame K.lutWhite
  | .lutGray1 => commandFrame K.lutGray1
  | .lutGray2 => commandFrame K.lutGray2
  | .lutRed0 => commandFrame K.lutRed0
  | .lutRed1 => commandFrame K.lutRed1
  | .lutRed2 => commandFrame K.lutRed2
  | .lutRed3 => commandFrame K.lutRed3
  | .lutXon => commandFrame K.lutXon
  | .temperatureSensorCommand => commandFrame K.temperatureSensorCommand
  | .temperatureSensorWrite => commandFrame K.temperatureSensorWrite
  | .temperatureSensorRead => commandFrame K.temperatureSensorRead
  | .lowPowerDetection => commandFrame K.lowPowerDetection
  | .spiFlashControl => commandFrame K.spiFlashControl
  | .revision => commandFrame K.revision
  | .getStatus => commandFrame K.getStatus
  | .autoMeasurementVcom => commandFrame K.autoMeasurementVcom
  | .readVcomValue => commandFrame K.readVcomValue
  | .data b => dataFrame b
  | .hostInitialize => .host 0#2
  | .hostRender => .host 1#2
  | .hostClear => .host 2#2
  | .hostSleep => .host 3#2
  | .endOp => uopWord 0x0#4 0#8
  | .cmd a => uopWord 0x1#4 a
  | .dat a => uopWord 0x2#4 a
  | .burst => uopWord 0x3#4 0#8
  | .wait => uopWord 0x4#4 0#8
  | .dly a => uopWord 0x5#4 a
  | .pin p l => uopWord 0x6#4 (pinOperand p l)
  | .pack => uopWord 0x7#4 0#8
  | .fill a => uopWord 0x8#4 a
  | .setst s => uopWord 0x9#4 (s.code.setWidth 8)

/-! ### The opcode table's numbering -/

/-- The word the opcode table means by `w` in `nbits` bits. The table gives HOSTOP 2 bits, FRAME9 9 and UOP12 12. In 16
bits FRAME9 and UOP12 cannot be told apart by width: the word is a script step where it decodes as one and a frame
otherwise, so 0x000 is END (not PANEL_SETTING) and 0x100 to 0x1FF are CMD (not DATA) (DESIGN CHOICE, safe: log entry 6). A bit set above the
format's width names nothing. -/
def tableWord (nbits w : Nat) : Option CodeWord :=
  if nbits ≤ 8 then
    if w < 4 then some (.host (BitVec.ofNat 2 w)) else none
  else if nbits = 9 then
    if w < 512 then some (.frame (BitVec.ofNat 9 w)) else none
  else if nbits = 12 then
    if w < 4096 then some (.uop (BitVec.ofNat 12 w)) else none
  else if w < 4096 then
    match decodeUop (BitVec.ofNat 12 w) with
    | .ok _ => some (.uop (BitVec.ofNat 12 w))
    | .error _ => if w < 512 then some (.frame (BitVec.ofNat 9 w)) else some (.uop (BitVec.ofNat 12 w))
  else none

/-- The instruction the decoder reads from a table word, under the default opcode bytes the table is written in. -/
def decodeTableWord (nbits w : Nat) : Option Instr :=
  match tableWord nbits w with
  | some cw =>
    match decode Opcodes.standard cw with
    | .ok i => some i
    | .error _ => none
  | none => none

end Sys2Proof
end

