-- ==== Sys2Proof/Machine/Scripts.lean ====
section
/-! DEFINITION. The four scripts as data (spec R233 to R236, R160 to R163, R101) and the script ROM that holds their words
(R66). The steps come from the configuration's opcode and payload bytes. -/

namespace Sys2Proof.Machine

/-- `v[15:8]` of a number below 65536 (R86). -/
def highByte (v : Nat) : Byte := BitVec.ofNat 8 (v / 256)

/-- `v[7:0]` (R86). -/
def lowByte (v : Nat) : Byte := BitVec.ofNat 8 (v % 256)

/-- `RES_PAYLOAD` (R55, R86, R175): width before height, each big-endian. -/
def resPayload : List Byte := [highByte panelWidth, lowByte panelWidth, highByte panelHeight, lowByte panelHeight]

/-- The pseudo-step `REG op, [p0, ..., p(n-1)]` (R101): one CMD, then one DAT per payload byte. -/
def reg (op : Byte) (payload : List Byte) : List Instr := .cmd op :: payload.map .dat

/-- The pseudo-step `RESET_PULSE` (R161). -/
def resetPulse : List Instr :=
  [.pin .rst .high, .dly resetHoldMs, .pin .rst .low, .dly resetHoldMs, .pin .rst .high, .dly resetHoldMs]

/-- `INIT_BODY` (R162): the eleven register commands in their order, with the one WAIT after POWER_ON (R167). -/
def initBody (c : Config) : List Instr :=
  reg c.ops.powerSetting c.pay.powerSetting ++
  reg c.ops.panelSetting c.pay.panelSetting ++
  reg c.ops.boosterSoftStart c.pay.boosterSoftStart ++
  reg c.ops.powerOn [] ++ [.wait] ++
  reg c.ops.pllControl c.pay.pllControl ++
  reg c.ops.temperatureCalibration c.pay.temperatureCalibration ++
  reg c.ops.vcomAndDataIntervalSetting c.pay.vcomAndDataInterval ++
  reg c.ops.tconSetting c.pay.tconSetting ++
  reg c.ops.tconResolution resPayload ++
  reg c.ops.vcmDcSetting c.pay.vcmDcSetting ++
  reg c.ops.flashMode c.pay.flashMode

/-- The pseudo-step `SEND_FRAME_AND_REFRESH` (R101). -/
def sendFrameAndRefresh (c : Config) : List Instr :=
  [.cmd c.ops.dataStartTransmission1, .burst, .cmd c.ops.displayRefresh, .dly settleMs, .wait]

/-- The script of an operation (R233 to R236). -/
def script (c : Config) : HostOp → List Instr
  | .init => [.setst .uninitialized] ++ resetPulse ++ initBody c ++ [.setst .ready, .endOp]
  | .render => [.pack] ++ sendFrameAndRefresh c ++ [.endOp]
  | .clear => [.fill whiteByte] ++ sendFrameAndRefresh c ++ [.endOp]
  | .sleep => reg c.ops.powerOff [] ++ [.wait] ++ reg c.ops.deepSleep [c.pay.deepSleep] ++ [.setst .asleep, .endOp]

/-- The script ROM (R66): for each operation the words of its script. It is data so that a step is fetched and decoded
from it; no step writes it (DESIGN CHOICE, safe: log entry 7). -/
structure Rom where
  initWords : List CodeWord
  renderWords : List CodeWord
  clearWords : List CodeWord
  sleepWords : List CodeWord
deriving DecidableEq, Repr

/-- `script(cur)` as words (R25). -/
def Rom.words (r : Rom) : HostOp → List CodeWord
  | .init => r.initWords
  | .render => r.renderWords
  | .clear => r.clearWords
  | .sleep => r.sleepWords

/-- The ROM with another script for one operation. -/
def Rom.setWords (r : Rom) (op : HostOp) (ws : List CodeWord) : Rom :=
  match op with
  | .init => { r with initWords := ws }
  | .render => { r with renderWords := ws }
  | .clear => { r with clearWords := ws }
  | .sleep => { r with sleepWords := ws }

/-- The ROM of a configuration: the encoded scripts. -/
def Rom.ofConfig (c : Config) : Rom where
  initWords := (script c .init).map (encode c.ops)
  renderWords := (script c .render).map (encode c.ops)
  clearWords := (script c .clear).map (encode c.ops)
  sleepWords := (script c .sleep).map (encode c.ops)

/-- A list with `w` at place `n`, filled up with END words where it was shorter. -/
def placeWord : Nat → CodeWord → List CodeWord → List CodeWord
  | 0, w, [] => [w]
  | 0, w, _ :: ws => w :: ws
  | n + 1, w, [] => .uop 0#12 :: placeWord n w []
  | n + 1, w, x :: ws => x :: placeWord n w ws

end Sys2Proof.Machine
end

