-- ==== Sys2Proof/Machine/State.lean ====
section
/-! DEFINITION. The state of the block (spec R20), the inputs and parameters of its step (R10) carried beside it, the reasons a
step can stop, and the state after creation (R41). -/

namespace Sys2Proof.Machine

/-- A memory: (address, byte) cells, addresses strictly rising; an unlisted address holds no value. -/
abbrev Memory := List Host.Cell

/-- The bitmap of a RENDER (R32, R51), a value: pixel `(x, y)` is keyed by `y * width + x`; an unlisted pixel has the
luminance `ground`, so every pixel has one (DESIGN CHOICE, unsafe: log entry 8). -/
structure Bitmap where
  width : Nat
  height : Nat
  ground : Byte
  pixels : Memory
deriving DecidableEq, Repr

/-- A request at the host's ports (R32): the 2-bit code of the operation and, with RENDER, the bitmap. -/
structure HostReq where
  code : BitVec 2
  bm : Option Bitmap
deriving DecidableEq, Repr

/-- A transport action that can fail, with its arguments (R33). `T.delay` cannot (R272). -/
inductive Action where
  | setPin (p : OutPin) (l : Level)
  | readPin
  | txByte (b : Byte)
  | txBurst (bs : List Byte)
deriving DecidableEq, Repr

/-- An entry of `trace` (R35): a transport action, its arguments and its answer. -/
inductive Event where
  /-- `SetPin(p, l)`, ok or fail. -/
  | setPin (p : OutPin) (l : Level) (ok : Bool)
  /-- `ReadPin(BUSY)`: the level answered, or `none` for fail. -/
  | readPin (got : Option Level)
  /-- `Delay(ms)`. -/
  | delay (ms : Nat)
  /-- `TxByte(b)`, ok or fail. -/
  | txByte (b : Byte) (ok : Bool)
  /-- `TxBurst(bs)`: `none` for ok, `some k` for a failure after a prefix of length `k`. -/
  | txBurst (bs : List Byte) (cut : Option Nat)
deriving DecidableEq, Repr

/-- An exception with its information (R271). -/
inductive Exc where
  | transportFailure (op : HostOp) (upc : Nat) (act : Action)
  | wrongState (op : HostOp) (st : CtrlState)
  | wrongDimensions (width height : Nat)
  | timeout (op : HostOp) (upc polls : Nat)
deriving DecidableEq, Repr

/-- `res` (R29): OK with empty info, or the exception that ended the last operation. -/
inductive Result where
  | ok
  | exc (e : Exc)
deriving DecidableEq, Repr

/-- An entry of `faults` (R20): the operation and the exception with its information. -/
structure FaultRec where
  op : HostOp
  exc : Exc
deriving DecidableEq, Repr

/-- The state. The first group is the block's own state, complete by R20. The second is what R10 calls parameters of the
step: the configuration and the script ROM, which no step writes, the host's requests, the bitmap at the port `bm`, and the
answers of the transport; the model carries them because its step is a function of the state alone. -/
structure State where
  /-- `st`, the ControllerState (R21). -/
  st : CtrlState
  /-- `cur` (R22): the operation in progress; `none` is Idle. -/
  cur : Option HostOp
  /-- `upc` (R24): index of the next step of the script of `cur`. -/
  upc : Nat
  /-- `polls` (R28): busy reads so far in the current wait. -/
  polls : Nat
  /-- `dc_latch` (R30): last level driven on DC; `none` is the spec's own "unknown". -/
  dcLatch : Option Level
  /-- `rst_latch` (R30). -/
  rstLatch : Option Level
  /-- `FB` (R31): the packed framebuffer. -/
  fb : Memory
  /-- `fb_valid` (R31): whether `FB` has been written in full since creation. -/
  fbValid : Bool
  /-- `res` (R29). -/
  res : Result
  /-- `trace` (R35), oldest first. -/
  trace : List Event
  /-- `faults` (R289), oldest first. -/
  faults : List FaultRec
  /-- The parameters (R5, R7, R37). -/
  cfg : Config
  /-- The script ROM (R66). -/
  rom : Rom
  /-- The host's requests not yet accepted, oldest first; one is taken when `cur` is Idle (R32, R322). -/
  hostq : List HostReq
  /-- The bitmap at the port `bm` (R32). -/
  bm : Bitmap
  /-- The scheduled answers of the transport, the next one first (R9, R32). -/
  answers : List Answer
  /-- MODEL'S OWN: how many answers have been drawn from `Config.freeAnswer` (DESIGN CHOICE, safe: log entry 2). -/
  draws : Nat
deriving DecidableEq, Repr

/-- What stops the machine with a fault. -/
inductive Fault where
  /-- Raised by `step` when `upc` is past the last word of the script. "`upc` never runs past the last index" (R24), so no
  run of the block reaches it. Safe: the model stops. -/
  | scriptOverrun
deriving DecidableEq, Repr

/-- Why the model gives no next state. -/
inductive Refusal where
  /-- An instruction with no meaning yet. None is left. -/
  | notModelled (mnemonic : String)
  /-- Raised by a host operation while another is in progress: the outcome is not stated and "the model refuses it"
  (R322). `step` reads the host's requests only when `cur` is Idle, so it does not reach it there. Safe. -/
  | hostBusy
  /-- Raised by a script step or a frame while `cur` is Idle: "When `cur` is Idle the block has no step of its own" (R27).
  `step` does not reach it. Safe. -/
  | blockIdle
  /-- Raised by `step` on a word that decodes to nothing: "a model whose scripts are data refuses a script containing one"
  (R97). Safe. -/
  | badWord (e : DecodeError)
deriving DecidableEq, Repr

/-- The bitmap port before the host has presented one: no pixels (DESIGN CHOICE, unsafe: log entry 8). -/
def Bitmap.absent : Bitmap := { width := 0, height := 0, ground := 0#8, pixels := [] }

/-- The block as created (R41), with the default parameters (R5, R7) and no input scheduled (DESIGN CHOICE, unsafe: log
entry 15). -/
def State.reset : State where
  st := .uninitialized
  cur := none
  upc := 0
  polls := 0
  dcLatch := none
  rstLatch := none
  fb := []
  fbValid := false
  res := .ok
  trace := []
  faults := []
  cfg := Config.standard
  rom := Rom.ofConfig Config.standard
  hostq := []
  bm := Bitmap.absent
  answers := []
  draws := 0

end Sys2Proof.Machine
end

