-- ==== Sys2Proof/Machine/Flags.lean ====
section
/-! DEFINITION. Status. The block has no arithmetic flags (spec R29); its only status is `res`. This file holds the codes of
results (R89, R271) and the classes of exceptions (R270). -/

namespace Sys2Proof.Machine

/-- TransportFailure and Timeout end in Uninitialized; PreconditionViolation leaves `st` (R280). -/
def Exc.resetsState : Exc → Bool
  | .transportFailure _ _ _ => true
  | .timeout _ _ _ => true
  | .wrongState _ _ => false
  | .wrongDimensions _ _ => false

/-- The 2-bit code of an exception's class (R271): 1 TransportFailure, 2 PreconditionViolation, 3 Timeout. -/
def Exc.code : Exc → BitVec 2
  | .transportFailure _ _ _ => 1#2
  | .wrongState _ _ => 2#2
  | .wrongDimensions _ _ => 2#2
  | .timeout _ _ _ => 3#2

/-- The 2-bit result code (R89). -/
def Result.code : Result → BitVec 2
  | .ok => 0#2
  | .exc e => e.code

/-- The host code of an operation (R87). -/
def hostCode : HostOp → BitVec 2
  | .init => 0#2
  | .render => 1#2
  | .clear => 2#2
  | .sleep => 3#2

end Sys2Proof.Machine
end

