-- ==== Sys2Proof/Machine/Operands.lean ====
section
/-! DEFINITION. Operands: bytes of a memory, the nibbles of a packed byte (spec R84), pixels of a bitmap (R51), and the
Framebuffer Packer (R200 to R206), a pure function of the bitmap. -/

namespace Sys2Proof.Machine

/-! ### Memory -/

/-- The byte at an address, `none` where nothing is listed. -/
def Memory.read : Memory → Nat → Option Byte
  | [], _ => none
  | (k, v) :: m, a => if k = a then some v else Memory.read m a

/-- Write one byte, keeping the addresses strictly rising. -/
def Memory.write : Memory → Nat → Byte → Memory
  | [], a, b => [(a, b)]
  | (k, v) :: m, a, b =>
    if a < k then (a, b) :: (k, v) :: m
    else if a = k then (a, b) :: m
    else (k, v) :: Memory.write m a b

/-- Whether addresses rise strictly from a lower bound on. -/
def Memory.risesFrom : Nat → Memory → Bool
  | _, [] => true
  | n, (k, _) :: m => decide (n ≤ k) && Memory.risesFrom (k + 1) m

/-- The canonical form of a memory: addresses strictly rising. An unlisted address holds no value, so no entry equals what
an unlisted address reads as. -/
def Memory.wf (m : Memory) : Bool := Memory.risesFrom 0 m

/-- The cells of bytes that stand from address `a` on. -/
def Memory.cells : Nat → List Byte → Memory
  | _, [] => []
  | a, b :: bs => (a, b) :: Memory.cells (a + 1) bs

/-- Write bytes at `a`, `a + 1`, ...: the loops of R244 and R245, in one pass; `Memory.writeBytes_eq_writeLoop` says that it is
those loops. -/
def Memory.writeBytes (a : Nat) (bs : List Byte) (m : Memory) : Memory :=
  m.filter (fun c => decide (c.1 < a)) ++ Memory.cells a bs ++ m.filter (fun c => decide (a + bs.length ≤ c.1))

/-- The loops of R244 and R245 word for word: write one byte after the other in ascending order. -/
def Memory.writeLoop (a : Nat) : List Byte → Memory → Memory
  | [], m => m
  | b :: bs, m => Memory.writeLoop (a + 1) bs (Memory.write m a b)

/-- Read `n` bytes at `a`, `a + 1`, ..., with `free` for an address that holds no value, dropping cells as they are passed. -/
def Memory.readRange (free : Nat → Byte) : Nat → Nat → Memory → List Byte
  | 0, _, _ => []
  | n + 1, a, [] => free a :: Memory.readRange free n (a + 1) []
  | n + 1, a, (k, v) :: m =>
    if k = a then v :: Memory.readRange free n (a + 1) m
    else (Memory.read m a).getD (free a) :: Memory.readRange free n (a + 1) ((k, v) :: m)

/-! ### Nibbles and pixels -/

/-- `b[7:4]`, the left pixel's code (R84). -/
def highNibble (b : Byte) : Nibble := b.extractLsb' 4 4

/-- `b[3:0]`, the right pixel's code (R84). -/
def lowNibble (b : Byte) : Nibble := b.extractLsb' 0 4

/-- A pixel code the packer produces (R85): exactly two. -/
def legalNibble (n : Nibble) : Bool := n == nibBlack || n == nibWhite

/-- A byte in which both pixel codes are legal (R85). -/
def legalByte (b : Byte) : Bool := legalNibble (highNibble b) && legalNibble (lowNibble b)

/-- `Lum(bm, x, y)` (R51). -/
def lum (bm : Bitmap) (x y : Nat) : Byte := (Memory.read bm.pixels (y * bm.width + x)).getD bm.ground

/-- The bitmap's dimensions are the panel's (R201). -/
def fitsPanel (bm : Bitmap) : Bool := bm.width == panelWidth && bm.height == panelHeight

/-! ### The packer -/

/-- `isBlack` (R202): an unsigned strict compare with the threshold. -/
def isBlack (l : Byte) : Bool := decide (l.toNat < lumThreshold)

/-- `code` (R203). -/
def nibbleCode (l : Byte) : Nibble := if isBlack l then nibBlack else nibWhite

/-- `pairByte` (R204): left pixel in the high nibble. -/
def pairByte (lL lR : Byte) : Byte := nibbleCode lL ++ nibbleCode lR

/-- `idx` (R52, R205). -/
def fbIndex (x y : Nat) : Nat := x / 2 + y * (panelWidth / 2)

/-- Byte `i` of the packed framebuffer, by the inverse map of R52. -/
def packedByte (bm : Bitmap) (i : Nat) : Byte :=
  pairByte (lum bm (2 * (i % rowBytes)) (i / rowBytes)) (lum bm (2 * (i % rowBytes) + 1) (i / rowBytes))

/-- `pack` (R206) as R206 allows a model to define it; `none` is `PreconditionViolation(WrongDimensions)`. -/
def packBitmap (bm : Bitmap) : Option (List Byte) :=
  if fitsPanel bm then some ((List.range fbLen).map (packedByte bm)) else none

/-- One row of the loop of R206: the pair at `x = 2 * j` for each `j` in turn. -/
def packRow (bm : Bitmap) (y : Nat) (out : Memory) : Memory :=
  (List.range (panelWidth / 2)).foldl
    (fun m j => Memory.write m (fbIndex (2 * j) y) (pairByte (lum bm (2 * j) y) (lum bm (2 * j + 1) y))) out

/-- The two nested loops of R206, row-major, word for word; the closed form `packBitmap` is what PACK uses. -/
def packLoop (bm : Bitmap) : Memory := (List.range panelHeight).foldl (fun m y => packRow bm y m) []

end Sys2Proof.Machine
end

