-- ==== Sys2Proof/Machine/Ops.lean ====
section
/-! DEFINITION. The named operations every meaning is written with: the oracle's answers, the trace, taking an exception, the
transport actions, the framer, the busy synchronizer, the acceptance of an operation and the advance of `upc`. -/

namespace Sys2Proof.Machine

/-! ### Answers and trace -/

/-- The transport's next answer: the scheduled one, else a free value (R9, R40, R272; DESIGN CHOICE, safe: log entry 2). -/
def State.answer (s : State) : Answer :=
  match s.answers with
  | a :: _ => a
  | [] => Config.freeAnswer s.draws

/-- The state with that answer used up. -/
def State.consume (s : State) : State :=
  { s with answers := s.answers.tail, draws := if s.answers.isEmpty then s.draws + 1 else s.draws }

/-- The answer after `k` more have been used up. -/
def State.answerAt (s : State) : Nat → Answer
  | 0 => s.answer
  | k + 1 => s.consume.answerAt k

/-- The state with `k` answers used up. -/
def State.consumeMany (s : State) : Nat → State
  | 0 => s
  | k + 1 => s.consume.consumeMany k

/-- Append an action to `trace` (R35). -/
def State.log (s : State) (e : Event) : State := { s with trace := s.trace ++ [e] }

/-- Write the latch of a pin (R30, R240). -/
def State.latch (s : State) (p : OutPin) (l : Option Level) : State :=
  match p with
  | .rst => { s with rstLatch := l }
  | .dc => { s with dcLatch := l }

/-! ### The framebuffer -/

/-- `MemRead(FB, i, 1)`: a byte never written is what FB held at creation, a free value (R31, R41; DESIGN CHOICE, safe: log entry 3). -/
def State.fbByte (s : State) (i : Nat) : Byte := (Memory.read s.fb i).getD (Config.fbAtCreation i)

/-- All of FB in ascending index order (R57, R243). -/
def State.fbBytes (s : State) : List Byte := Memory.readRange Config.fbAtCreation fbLen 0 s.fb

/-- Write FB in full and set `fb_valid` (R244, R245). -/
def State.storeFb (s : State) (bs : List Byte) : State :=
  { s with fb := Memory.writeBytes 0 bs s.fb, fbValid := true }

/-! ### Exceptions -/

/-- `raise E(info)` (R280): the one way an exception is taken. No vector, no saved counter; control goes to Idle. There is
no return from exception (R284): the block then accepts the next operation. -/
def raiseExc (op : HostOp) (e : Exc) (s : State) : State :=
  { s with
    faults := s.faults ++ [{ op := op, exc := e }]
    res := .exc e
    st := if e.resetsState then .uninitialized else s.st
    cur := none
    upc := 0
    polls := 0 }

/-- How a part of a step ended: the step goes on or is complete; WAIT repeats; the operation is over. -/
inductive StepEnd where
  | done (s : State)
  | again (s : State)
  | over (s : State)
deriving DecidableEq, Repr

/-- Continue after a part that went well. -/
def StepEnd.andThen (r : StepEnd) (f : State → StepEnd) : StepEnd :=
  match r with
  | .done s => f s
  | .again s => .again s
  | .over s => .over s

/-- `raise TransportFailure(action)` (R13, R272). -/
def transportFail (op : HostOp) (a : Action) (s : State) : StepEnd :=
  .over (raiseExc op (.transportFailure op s.upc a) s)

/-! ### Transport actions -/

/-- `T.setPin(p, l)` and the latch: `l` when answered ok, unknown when answered fail (R121, R240, R273). -/
def setPin (op : HostOp) (p : OutPin) (l : Level) (s : State) : StepEnd :=
  if s.answer.ok then .done ((s.consume.log (.setPin p l true)).latch p (some l))
  else transportFail op (.setPin p l) ((s.consume.log (.setPin p l false)).latch p none)

/-- `T.delay(ms)` (R150): no answer, no failure (R272; DESIGN CHOICE, safe: log entry 18). -/
def delay (ms : Nat) (s : State) : StepEnd := .done (s.log (.delay ms))

/-- `T.txByte(b)` (R33). -/
def txByte (op : HostOp) (b : Byte) (s : State) : StepEnd :=
  if s.answer.ok then .done (s.consume.log (.txByte b true))
  else transportFail op (.txByte b) (s.consume.log (.txByte b false))

/-- The prefix a failed burst of `n` bytes delivered: `0 <= k < n`, drawn by the transport (R273; DESIGN CHOICE, safe: log entry 12).
-/
def deliveredPrefix (sent n : Nat) : Nat := sent % max 1 n

/-- `T.txBurst(bs)` (R33, R123). -/
def txBurst (op : HostOp) (bs : List Byte) (s : State) : StepEnd :=
  if s.answer.ok then .done (s.consume.log (.txBurst bs none))
  else transportFail op (.txBurst bs) (s.consume.log (.txBurst bs (some (deliveredPrefix s.answer.sent bs.length))))

/-! ### The framer -/

/-- `sendCommand(opcode)` (R121). -/
def sendCommand (op : HostOp) (b : Byte) (s : State) : StepEnd :=
  (setPin op .dc s.cfg.cmdLevel s).andThen (txByte op b)

/-- `sendData(value)` (R122). -/
def sendData (op : HostOp) (b : Byte) (s : State) : StepEnd :=
  (setPin op .dc s.cfg.dataLevel s).andThen (txByte op b)

/-- `sendDataBurst(bytes)` (R123). -/
def sendDataBurst (op : HostOp) (bs : List Byte) (s : State) : StepEnd :=
  (setPin op .dc s.cfg.dataLevel s).andThen (txBurst op bs)

/-! ### The busy synchronizer -/

/-- The bound test of R142: `MAX_POLLS = some m` and `n >= m`. -/
def pollLimit (maxPolls : Option Nat) (n : Nat) : Bool :=
  match maxPolls with
  | none => false
  | some m => decide (m ≤ n)

/-- A busy read: count it, then Timeout at the bound, else one more delay (R142). -/
def busyRead (op : HostOp) (s : State) : StepEnd :=
  if pollLimit s.cfg.maxPolls (s.polls + 1) then
    .over (raiseExc op (.timeout op s.upc (s.polls + 1)) { s with polls := s.polls + 1 })
  else .again ({ s with polls := s.polls + 1 }.log (.delay pollIntervalMs))

/-- One iteration of `waitUntilIdle` (R142, R25): one read of BUSY and what follows from it (DEDUCED,
safe: log entry 11). -/
def pollBusy (op : HostOp) (s : State) : StepEnd :=
  if s.answer.ok then
    let t := s.consume.log (.readPin (some s.answer.level))
    if s.answer.level = s.cfg.idleLevel then .done { t with polls := 0 } else busyRead op t
  else transportFail op .readPin (s.consume.log (.readPin none))

/-! ### The packer's and the filler's steps -/

/-- `FB <- pack(bm)`, or WrongDimensions before any write (R201, R244). -/
def packStep (op : HostOp) (s : State) : StepEnd :=
  match packBitmap s.bm with
  | some out => .done (s.storeFb out)
  | none => .over (raiseExc op (.wrongDimensions s.bm.width s.bm.height) s)

/-- Every byte of FB becomes `v` (R245). -/
def fillStep (v : Byte) (s : State) : StepEnd := .done (s.storeFb (List.replicate fbLen v))

/-- END (R249): the operation's normal end. -/
def finish (s : State) : StepEnd := .over { s with res := .ok, cur := none, upc := 0 }

/-! ### Running a step, accepting an operation -/

/-- How `upc` advances (R25). -/
def settle : StepEnd → State
  | .done s => { s with upc := s.upc + 1 }
  | .again s => s
  | .over s => s

/-- Execute a step of the operation in progress; the block has none when Idle (R25, R27; DEDUCED, safe: log entry 14). -/
def runStep (f : HostOp → State → StepEnd) (s : State) : Host.Outcome State Fault Refusal :=
  match s.cur with
  | some op => .next (settle (f op s))
  | none => .refused .blockIdle

/-- Whether an operation may be accepted (R232, R237). -/
def mayStart (op : HostOp) (st : CtrlState) : Bool := op == .init || st == .ready

/-- `issue(op, bm)` (R232); refused while another operation runs (R322; DEDUCED, safe: log entry 14). -/
def issue (op : HostOp) (s : State) : Host.Outcome State Fault Refusal :=
  match s.cur with
  | some _ => .refused .hostBusy
  | none =>
    .next (if mayStart op s.st then { s with cur := some op, upc := 0, polls := 0 }
      else raiseExc op (.wrongState op s.st) s)

end Sys2Proof.Machine
end

