-- ==== Sys2Proof/Machine/Frames.lean ====
section
/-! DEFINITION. FRAME9 (spec R80): the meaning of a frame is that the block sends it. A command frame is `sendCommand` of its
opcode byte (R121), the data frame is `sendData` (R122). A register command (R83) is such a command frame followed by the
data frames of its payload, each an instruction of its own; what the panel does with it is not in any source (R4, R38).
The 23 opcodes of R96 are never sent by a script; `sendCommand` takes "any value 0 to 255" (R121), so they run like the
others (DEDUCED, unsafe: log entry 9). -/

namespace Sys2Proof.Machine

/-- Send the command frame of an opcode name: one `sendCommand` (R121) within the operation in progress. -/
def sendOpcode (n : OpName) (s : State) : Host.Outcome State Fault Refusal := runStep (fun op t => sendCommand op (t.cfg.ops.byte n) t) s

/-- PANEL_SETTING (R165): 2nd of INITIALIZE. -/
def execPanelSetting (s : State) : Host.Outcome State Fault Refusal := sendOpcode .panelSetting s

/-- POWER_SETTING (R164): 1st of INITIALIZE. -/
def execPowerSetting (s : State) : Host.Outcome State Fault Refusal := sendOpcode .powerSetting s

/-- POWER_OFF (R236): 1st of SLEEP; a WAIT step follows it. -/
def execPowerOff (s : State) : Host.Outcome State Fault Refusal := sendOpcode .powerOff s

/-- POWER_ON (R167): 4th of INITIALIZE; the WAIT of R167 is the script step after it. -/
def execPowerOn (s : State) : Host.Outcome State Fault Refusal := sendOpcode .powerOn s

/-- BOOSTER_SOFT_START (R166): 3rd of INITIALIZE. -/
def execBoosterSoftStart (s : State) : Host.Outcome State Fault Refusal := sendOpcode .boosterSoftStart s

/-- DEEP_SLEEP (R236): 2nd of SLEEP. -/
def execDeepSleep (s : State) : Host.Outcome State Fault Refusal := sendOpcode .deepSleep s

/-- DATA_START_TRANSMISSION_1 (R234): RENDER and CLEAR; the BURST step follows it. -/
def execDataStartTransmission1 (s : State) : Host.Outcome State Fault Refusal := sendOpcode .dataStartTransmission1 s

/-- DISPLAY_REFRESH (R234): RENDER and CLEAR; DLY 100 and WAIT follow it. -/
def execDisplayRefresh (s : State) : Host.Outcome State Fault Refusal := sendOpcode .displayRefresh s

/-- PLL_CONTROL (R168): 5th of INITIALIZE. -/
def execPllControl (s : State) : Host.Outcome State Fault Refusal := sendOpcode .pllControl s

/-- TEMPERATURE_CALIBRATION (R169): 6th of INITIALIZE. -/
def execTemperatureCalibration (s : State) : Host.Outcome State Fault Refusal := sendOpcode .temperatureCalibration s

/-- VCOM_AND_DATA_INTERVAL_SETTING (R170): 7th of INITIALIZE. -/
def execVcomAndDataIntervalSetting (s : State) : Host.Outcome State Fault Refusal := sendOpcode .vcomAndDataIntervalSetting s

/-- TCON_SETTING (R171): 8th of INITIALIZE. -/
def execTconSetting (s : State) : Host.Outcome State Fault Refusal := sendOpcode .tconSetting s

/-- TCON_RESOLUTION (R175): 9th of INITIALIZE. -/
def execTconResolution (s : State) : Host.Outcome State Fault Refusal := sendOpcode .tconResolution s

/-- VCM_DC_SETTING (R176): 10th of INITIALIZE. -/
def execVcmDcSetting (s : State) : Host.Outcome State Fault Refusal := sendOpcode .vcmDcSetting s

/-- FLASH_MODE (R177): 11th of INITIALIZE. -/
def execFlashMode (s : State) : Host.Outcome State Fault Refusal := sendOpcode .flashMode s

/-- POWER_OFF_SEQUENCE_SETTING (R96): carried by the block, never sent by a script. -/
def execPowerOffSequenceSetting (s : State) : Host.Outcome State Fault Refusal := sendOpcode .powerOffSequenceSetting s

/-- POWER_ON_MEASURE (R96): carried by the block, never sent by a script. -/
def execPowerOnMeasure (s : State) : Host.Outcome State Fault Refusal := sendOpcode .powerOnMeasure s

/-- DATA_STOP (R96): carried by the block, never sent by a script. -/
def execDataStop (s : State) : Host.Outcome State Fault Refusal := sendOpcode .dataStop s

/-- IMAGE_PROCESS (R96): carried by the block, never sent by a script. -/
def execImageProcess (s : State) : Host.Outcome State Fault Refusal := sendOpcode .imageProcess s

/-- LUT_FOR_VCOM (R96): carried by the block, never sent by a script. -/
def execLutForVcom (s : State) : Host.Outcome State Fault Refusal := sendOpcode .lutForVcom s

/-- LUT_BLUE (R96): carried by the block, never sent by a script. -/
def execLutBlue (s : State) : Host.Outcome State Fault Refusal := sendOpcode .lutBlue s

/-- LUT_WHITE (R96): carried by the block, never sent by a script. -/
def execLutWhite (s : State) : Host.Outcome State Fault Refusal := sendOpcode .lutWhite s

/-- LUT_GRAY_1 (R96): carried by the block, never sent by a script. -/
def execLutGray1 (s : State) : Host.Outcome State Fault Refusal := sendOpcode .lutGray1 s

/-- LUT_GRAY_2 (R96): carried by the block, never sent by a script. -/
def execLutGray2 (s : State) : Host.Outcome State Fault Refusal := sendOpcode .lutGray2 s

/-- LUT_RED_0 (R96): carried by the block, never sent by a script. -/
def execLutRed0 (s : State) : Host.Outcome State Fault Refusal := sendOpcode .lutRed0 s

/-- LUT_RED_1 (R96): carried by the block, never sent by a script. -/
def execLutRed1 (s : State) : Host.Outcome State Fault Refusal := sendOpcode .lutRed1 s

/-- LUT_RED_2 (R96): carried by the block, never sent by a script. -/
def execLutRed2 (s : State) : Host.Outcome State Fault Refusal := sendOpcode .lutRed2 s

/-- LUT_RED_3 (R96): carried by the block, never sent by a script. -/
def execLutRed3 (s : State) : Host.Outcome State Fault Refusal := sendOpcode .lutRed3 s

/-- LUT_XON (R96): carried by the block, never sent by a script. -/
def execLutXon (s : State) : Host.Outcome State Fault Refusal := sendOpcode .lutXon s

/-- TEMPERATURE_SENSOR_COMMAND (R96): carried by the block, never sent by a script. -/
def execTemperatureSensorCommand (s : State) : Host.Outcome State Fault Refusal := sendOpcode .temperatureSensorCommand s

/-- TEMPERATURE_SENSOR_WRITE (R96): carried by the block, never sent by a script. -/
def execTemperatureSensorWrite (s : State) : Host.Outcome State Fault Refusal := sendOpcode .temperatureSensorWrite s

/-- TEMPERATURE_SENSOR_READ (R96): carried by the block, never sent by a script. -/
def execTemperatureSensorRead (s : State) : Host.Outcome State Fault Refusal := sendOpcode .temperatureSensorRead s

/-- LOW_POWER_DETECTION (R96): carried by the block, never sent by a script. -/
def execLowPowerDetection (s : State) : Host.Outcome State Fault Refusal := sendOpcode .lowPowerDetection s

/-- SPI_FLASH_CONTROL (R96): carried by the block, never sent by a script. -/
def execSpiFlashControl (s : State) : Host.Outcome State Fault Refusal := sendOpcode .spiFlashControl s

/-- REVISION (R96): carried by the block, never sent by a script. -/
def execRevision (s : State) : Host.Outcome State Fault Refusal := sendOpcode .revision s

/-- GET_STATUS (R96): carried by the block, never sent by a script. -/
def execGetStatus (s : State) : Host.Outcome State Fault Refusal := sendOpcode .getStatus s

/-- AUTO_MEASUREMENT_VCOM (R96): carried by the block, never sent by a script. -/
def execAutoMeasurementVcom (s : State) : Host.Outcome State Fault Refusal := sendOpcode .autoMeasurementVcom s

/-- READ_VCOM_VALUE (R96): carried by the block, never sent by a script. -/
def execReadVcomValue (s : State) : Host.Outcome State Fault Refusal := sendOpcode .readVcomValue s

/-- DATA `b` (R122): one `sendData`. -/
def execData (b : Byte) (s : State) : Host.Outcome State Fault Refusal := runStep (fun op t => sendData op b t) s

end Sys2Proof.Machine
end

