-- ==== Sys2Proof/Machine/HostOps.lean ====
section
/-! DEFINITION. HOSTOP (spec R87): the four public operations. Executing one is its acceptance (R232); the script it selects
(R233 to R236) then runs step by step (R25). -/

namespace Sys2Proof.Machine

/-- INITIALIZE (R233): valid from any state. -/
def execHostInitialize (s : State) : Host.Outcome State Fault Refusal := issue .init s

/-- RENDER (R234): valid only from Ready; the bitmap is at the port `bm`, its size is checked by PACK. -/
def execHostRender (s : State) : Host.Outcome State Fault Refusal := issue .render s

/-- CLEAR (R235): valid only from Ready. -/
def execHostClear (s : State) : Host.Outcome State Fault Refusal := issue .clear s

/-- SLEEP (R236): valid only from Ready. -/
def execHostSleep (s : State) : Host.Outcome State Fault Refusal := issue .sleep s

end Sys2Proof.Machine
end

