-- ==== Sys2Proof/Machine/Steps.lean ====
section
/-! DEFINITION. UOP12 (spec R90): the ten script steps (R240 to R249), each with every operand its
encoding admits (DEDUCED, safe: log entry 19). -/

namespace Sys2Proof.Machine

/-- END (R249). -/
def execEndOp (s : State) : Host.Outcome State Fault Refusal := runStep (fun _ t => finish t) s

/-- CMD `a` (R242). -/
def execCmd (a : Byte) (s : State) : Host.Outcome State Fault Refusal := runStep (fun op t => sendCommand op a t) s

/-- DAT `a` (R247). -/
def execDat (a : Byte) (s : State) : Host.Outcome State Fault Refusal := runStep (fun op t => sendData op a t) s

/-- BURST (R243): always the whole of FB. -/
def execBurst (s : State) : Host.Outcome State Fault Refusal := runStep (fun op t => sendDataBurst op t.fbBytes t) s

/-- WAIT (R248): one iteration of the loop of R142; `upc` stays while the panel is busy (R25). -/
def execWait (s : State) : Host.Outcome State Fault Refusal := runStep pollBusy s

/-- DLY `a` (R241): `a` milliseconds. -/
def execDly (a : Byte) (s : State) : Host.Outcome State Fault Refusal := runStep (fun _ t => delay a.toNat t) s

/-- PIN `p, l` (R240). -/
def execPin (p : OutPin) (l : Level) (s : State) : Host.Outcome State Fault Refusal := runStep (fun op t => setPin op p l t) s

/-- PACK (R244). -/
def execPack (s : State) : Host.Outcome State Fault Refusal := runStep packStep s

/-- FILL `a` (R245). -/
def execFill (a : Byte) (s : State) : Host.Outcome State Fault Refusal := runStep (fun _ t => fillStep a t) s

/-- SETST `c` (R246). -/
def execSetst (c : CtrlState) (s : State) : Host.Outcome State Fault Refusal := runStep (fun _ t => .done { t with st := c }) s

end Sys2Proof.Machine
end

