-- ==== Sys2Proof/Machine/Dispatch.lean ====
section
/-! DEFINITION. The dispatch: one arm per constructor of Instr, in the order of spec/opcode_table.json. -/

namespace Sys2Proof.Machine

def exec (i : Instr) (s : State) : Host.Outcome State Fault Refusal :=
  match i with
  | .panelSetting => Sys2Proof.Machine.execPanelSetting s
  | .powerSetting => Sys2Proof.Machine.execPowerSetting s
  | .powerOff => Sys2Proof.Machine.execPowerOff s
  | .powerOn => Sys2Proof.Machine.execPowerOn s
  | .boosterSoftStart => Sys2Proof.Machine.execBoosterSoftStart s
  | .deepSleep => Sys2Proof.Machine.execDeepSleep s
  | .dataStartTransmission1 => Sys2Proof.Machine.execDataStartTransmission1 s
  | .displayRefresh => Sys2Proof.Machine.execDisplayRefresh s
  | .pllControl => Sys2Proof.Machine.execPllControl s
  | .temperatureCalibration => Sys2Proof.Machine.execTemperatureCalibration s
  | .vcomAndDataIntervalSetting => Sys2Proof.Machine.execVcomAndDataIntervalSetting s
  | .tconSetting => Sys2Proof.Machine.execTconSetting s
  | .tconResolution => Sys2Proof.Machine.execTconResolution s
  | .vcmDcSetting => Sys2Proof.Machine.execVcmDcSetting s
  | .flashMode => Sys2Proof.Machine.execFlashMode s
  | .powerOffSequenceSetting => Sys2Proof.Machine.execPowerOffSequenceSetting s
  | .powerOnMeasure => Sys2Proof.Machine.execPowerOnMeasure s
  | .dataStop => Sys2Proof.Machine.execDataStop s
  | .imageProcess => Sys2Proof.Machine.execImageProcess s
  | .lutForVcom => Sys2Proof.Machine.execLutForVcom s
  | .lutBlue => Sys2Proof.Machine.execLutBlue s
  | .lutWhite => Sys2Proof.Machine.execLutWhite s
  | .lutGray1 => Sys2Proof.Machine.execLutGray1 s
  | .lutGray2 => Sys2Proof.Machine.execLutGray2 s
  | .lutRed0 => Sys2Proof.Machine.execLutRed0 s
  | .lutRed1 => Sys2Proof.Machine.execLutRed1 s
  | .lutRed2 => Sys2Proof.Machine.execLutRed2 s
  | .lutRed3 => Sys2Proof.Machine.execLutRed3 s
  | .lutXon => Sys2Proof.Machine.execLutXon s
  | .temperatureSensorCommand => Sys2Proof.Machine.execTemperatureSensorCommand s
  | .temperatureSensorWrite => Sys2Proof.Machine.execTemperatureSensorWrite s
  | .temperatureSensorRead => Sys2Proof.Machine.execTemperatureSensorRead s
  | .lowPowerDetection => Sys2Proof.Machine.execLowPowerDetection s
  | .spiFlashControl => Sys2Proof.Machine.execSpiFlashControl s
  | .revision => Sys2Proof.Machine.execRevision s
  | .getStatus => Sys2Proof.Machine.execGetStatus s
  | .autoMeasurementVcom => Sys2Proof.Machine.execAutoMeasurementVcom s
  | .readVcomValue => Sys2Proof.Machine.execReadVcomValue s
  | .data b => Sys2Proof.Machine.execData b s
  | .hostInitialize => Sys2Proof.Machine.execHostInitialize s
  | .hostRender => Sys2Proof.Machine.execHostRender s
  | .hostClear => Sys2Proof.Machine.execHostClear s
  | .hostSleep => Sys2Proof.Machine.execHostSleep s
  | .endOp => Sys2Proof.Machine.execEndOp s
  | .cmd a => Sys2Proof.Machine.execCmd a s
  | .dat a => Sys2Proof.Machine.execDat a s
  | .burst => Sys2Proof.Machine.execBurst s
  | .wait => Sys2Proof.Machine.execWait s
  | .dly a => Sys2Proof.Machine.execDly a s
  | .pin p l => Sys2Proof.Machine.execPin p l s
  | .pack => Sys2Proof.Machine.execPack s
  | .fill a => Sys2Proof.Machine.execFill a s
  | .setst c => Sys2Proof.Machine.execSetst c s

end Sys2Proof.Machine
end

