-- ==== Sys2Proof/Machine/Fetch.lean ====
section
/-! DEFINITION. Where the next instruction stands (spec R24, R25, R32). While an operation is in progress it is the word of
its script at `upc`; while the block is Idle it is the oldest request of the host. -/

namespace Sys2Proof.Machine

/-- The word of the script of `op` at `upc` (R25). -/
def fetchWord (s : State) (op : HostOp) : Option CodeWord := (s.rom.words op)[s.upc]?

/-- Take the oldest request: its bitmap, if it brings one, is at the port `bm` from now on (R32; DESIGN CHOICE, safe:
log entry 13). -/
def takeRequest (s : State) (r : HostReq) (rest : List HostReq) : State :=
  { s with hostq := rest, bm := r.bm.getD s.bm }

/-- Execute a fetched word; a word that decodes to nothing is refused (R97). -/
def execWord (w : CodeWord) (s : State) : Host.Outcome State Fault Refusal :=
  match decode s.cfg.ops w with
  | .ok i => exec i s
  | .error e => .refused (.badWord e)

/-- One step of the operation in progress (R25); `upc` past the script is a fault (R24). -/
def stepScript (op : HostOp) (s : State) : Host.Outcome State Fault Refusal :=
  match fetchWord s op with
  | some w => execWord w s
  | none => .fault .scriptOverrun

/-- One move while Idle: the host's next request, or none and nothing changes (R22, R27; DESIGN CHOICE, safe:
log entry 20). -/
def stepIdle (s : State) : Host.Outcome State Fault Refusal :=
  match s.hostq with
  | r :: rest => execWord (.host r.code) (takeRequest s r rest)
  | [] => .next s

/-- Place a word where the next step fetches it: a host code at the head of the host's requests with the block Idle, a
step or a frame at `upc` in the script of the operation in progress (of INITIALIZE, when Idle). -/
def placeNext (s : State) : CodeWord → State
  | .host w => { s with cur := none, upc := 0, polls := 0, hostq := { code := w, bm := none } :: s.hostq }
  | w =>
    let op := s.cur.getD .init
    { s with cur := some op, rom := s.rom.setWords op (placeWord s.upc w (s.rom.words op)) }

end Sys2Proof.Machine
end

