-- ==== Sys2Proof/Machine/Step.lean ====
section
/-! DEFINITION. One step of the machine: a script step while an operation is in progress, else the host's move (spec R25, R27). -/

namespace Sys2Proof.Machine

/-- The step (R25, R27, R232). -/
def step (s : State) : Host.Outcome State Fault Refusal :=
  match s.cur with
  | some op => stepScript op s
  | none => stepIdle s

/-- The state with the opcode table's word `w` of `nbits` bits placed where `step` fetches next (DESIGN CHOICE, safe: log entry 6, DESIGN CHOICE, safe: log entry 10). -/
def State.withFetchWord (s : State) (nbits w : Nat) : State :=
  match tableWord nbits w with
  | some cw => placeNext s cw
  | none => s

end Sys2Proof.Machine
end

