-- ==== Sys2Proof/Machine/FrameTrace.lean ====
section
/-! DEFINITION. Views derived from `trace`: the frame trace (spec R36), the register commands it holds (R92, R99), and what each
panel register was last sent (R53, R54). They are what the panel's serial port sees; the panel itself is not modelled
(R40). -/

namespace Sys2Proof.Machine

/-- A frame (R80) with its logical selection: `some false` is command (sel = 0), `some true` is data (sel = 1), `none` is
unknown (R36). -/
structure Frame where
  sel : Option Bool
  b : Byte
deriving DecidableEq, Repr

/-- The FRAME9 word of a frame whose selection is known (R80). -/
def Frame.word (f : Frame) : Option (BitVec 9) :=
  match f.sel with
  | some true => some (1#1 ++ f.b)
  | some false => some (0#1 ++ f.b)
  | none => none

/-- The logical selection after an action (R36). -/
def selAfter (c : Config) (sel : Option Bool) : Event → Option Bool
  | .setPin .dc l true => if l = c.cmdLevel then some false else some true
  | .setPin .dc _ false => none
  | _ => sel

/-- The frames an action contributes under a selection (R36); `got` says whether a failed byte was received. -/
def eventFrames (got : Bool) (sel : Option Bool) : Event → List Frame
  | .txByte b true => [{ sel := sel, b := b }]
  | .txByte b false => if got then [{ sel := sel, b := b }] else []
  | .txBurst bs none => bs.map fun b => { sel := sel, b := b }
  | .txBurst bs (some k) => (bs.take k).map fun b => { sel := sel, b := b }
  | _ => []

/-- The frames of a trace from place `n` on, walking it in order with the current selection (R36). `got n` says whether the
byte of a failed `TxByte` at place `n` was received. -/
def framesFrom (c : Config) (got : Nat → Bool) : Nat → Option Bool → List Event → List Frame
  | _, _, [] => []
  | n, sel, e :: es => eventFrames (got n) sel e ++ framesFrom c got (n + 1) (selAfter c sel e) es

/-- The frame trace for one choice of what became of failed bytes; the selection is unknown at creation (R36). -/
def framesOf (c : Config) (got : Nat → Bool) (tr : List Event) : List Frame := framesFrom c got 0 none tr

/-- The frame trace of a state (R36); which failed bytes were received is a free value (DESIGN CHOICE, safe: log entry 4). -/
def State.frameTrace (s : State) : List Frame := framesOf s.cfg Config.failedByteReceived s.trace

/-- A register command as received: an opcode and its payload (R83). -/
abbrev RegCommand := OpName × List Byte

/-- Split frames into the data bytes before the first command frame and the register commands (R92). A frame of unknown
selection and a command byte of no known opcode are rejected (R97). -/
def splitCommands (K : Opcodes) : List Frame → Option (List Byte × List RegCommand)
  | [] => some ([], [])
  | f :: fs =>
    match splitCommands K fs with
    | none => none
    | some (ds, cs) =>
      match f.sel with
      | some true => some (f.b :: ds, cs)
      | some false => (opNameOf K f.b).map fun n => ([], (n, ds) :: cs)
      | none => none

/-- The register commands of a frame trace (R92). Data before the first command belongs to none and is rejected. -/
def regCommands (K : Opcodes) (fs : List Frame) : Option (List RegCommand) :=
  match splitCommands K fs with
  | some ([], cs) => some cs
  | _ => none

/-- The payload a panel register was last sent (R53); for DATA_START_TRANSMISSION_1 the pixel data in stream order (R54). -/
def lastPayload (n : OpName) : List RegCommand → Option (List Byte)
  | [] => none
  | (m, p) :: cs =>
    match lastPayload n cs with
    | some q => some q
    | none => if m = n then some p else none

end Sys2Proof.Machine
end

