-- ==== Sys2Proof/Safety.lean ====
section
/-! DEFINITION. The terms claims use: runs, premises about the transport and the panel (spec R312, R147), the transport
actions of the parts of an operation written out from the rules (R83, R161 to R177, R234 to R236), and the invariants
(R42). -/

namespace Sys2Proof.Machine

/-! ### Runs and premises -/

/-- `n` steps, stopping at a fault or a refusal. -/
def runSteps : Nat → State → Host.Outcome State Fault Refusal
  | 0, s => .next s
  | n + 1, s =>
    match step s with
    | .next t => runSteps n t
    | .fault f => .fault f
    | .refused r => .refused r

/-- The answers from place `k` on, `n` of them, are all ok (a stretch of `transport_reliable`, R312). -/
def State.okFrom (s : State) (k n : Nat) : Prop := ∀ i, i < n → (s.answerAt (k + i)).ok = true

/-- From place `k` on BUSY is answered busy `j` times, every read ok (R143). -/
def State.busyFrom (s : State) (k j : Nat) : Prop :=
  ∀ i, i < j → (s.answerAt (k + i)).ok = true ∧ (s.answerAt (k + i)).level ≠ s.cfg.idleLevel

/-- At place `k` BUSY is answered idle. -/
def State.idleAt (s : State) (k : Nat) : Prop :=
  (s.answerAt k).ok = true ∧ (s.answerAt k).level = s.cfg.idleLevel

/-- `panel_eventually_idle` for the wait at hand (R147): after some number of ok busy answers comes an idle one. -/
def State.eventuallyIdle (s : State) : Prop := ∃ j, s.busyFrom 0 j ∧ s.idleAt j

/-- The script ROM holds the scripts of the configuration (R66). -/
def State.romIntact (s : State) : Prop := s.rom = Rom.ofConfig s.cfg

/-! ### The transport actions of the parts of an operation, all answered ok -/

/-- `sendCommand` (R121). -/
def commandEvents (c : Config) (b : Byte) : List Event := [.setPin .dc c.cmdLevel true, .txByte b true]

/-- `sendData` (R122). -/
def dataEvents (c : Config) (b : Byte) : List Event := [.setPin .dc c.dataLevel true, .txByte b true]

/-- `sendDataBurst` (R123). -/
def burstEvents (c : Config) (bs : List Byte) : List Event := [.setPin .dc c.dataLevel true, .txBurst bs none]

/-- A register command (R83, R122): one `sendCommand`, then one `sendData` per payload byte. -/
def regEvents (c : Config) (op : Byte) (payload : List Byte) : List Event :=
  commandEvents c op ++ payload.flatMap (dataEvents c)

/-- The reset pulse (R161): RST high, low, high, each held 200 ms. -/
def resetEvents : List Event :=
  [.setPin .rst .high true, .delay 200, .setPin .rst .low true, .delay 200, .setPin .rst .high true, .delay 200]

/-- A wait that returns after `j` busy readings (R143): `2 * j + 1` actions. -/
def waitEvents (c : Config) (j : Nat) : List Event :=
  (List.replicate j [Event.readPin (some c.busyLevel), Event.delay 100]).flatten ++ [.readPin (some c.idleLevel)]

/-- A wait that runs into the bound `m` (R143): `2 * m - 1` actions. -/
def timeoutEvents (c : Config) (m : Nat) : List Event :=
  (List.replicate (m - 1) [Event.readPin (some c.busyLevel), Event.delay 100]).flatten ++ [.readPin (some c.busyLevel)]

/-- INITIALIZE up to POWER_ON (R161, R164 to R167). -/
def initEventsBefore (c : Config) : List Event :=
  resetEvents ++ regEvents c c.ops.powerSetting c.pay.powerSetting ++ regEvents c c.ops.panelSetting c.pay.panelSetting ++
  regEvents c c.ops.boosterSoftStart c.pay.boosterSoftStart ++ commandEvents c c.ops.powerOn

/-- INITIALIZE after its wait (R168 to R177). -/
def initEventsAfter (c : Config) : List Event :=
  regEvents c c.ops.pllControl c.pay.pllControl ++ regEvents c c.ops.temperatureCalibration c.pay.temperatureCalibration ++
  regEvents c c.ops.vcomAndDataIntervalSetting c.pay.vcomAndDataInterval ++ regEvents c c.ops.tconSetting c.pay.tconSetting ++
  regEvents c c.ops.tconResolution [0x02#8, 0x80#8, 0x01#8, 0x80#8] ++ regEvents c c.ops.vcmDcSetting c.pay.vcmDcSetting ++
  regEvents c c.ops.flashMode c.pay.flashMode

/-- How many frames INITIALIZE sends up to POWER_ON: one per opcode and payload byte (R162). -/
def initFramesBefore (c : Config) : Nat :=
  4 + c.pay.powerSetting.length + c.pay.panelSetting.length + c.pay.boosterSoftStart.length

/-- How many frames INITIALIZE sends after its wait (R162). -/
def initFramesAfter (c : Config) : Nat :=
  11 + c.pay.pllControl.length + c.pay.temperatureCalibration.length + c.pay.vcomAndDataInterval.length +
    c.pay.tconSetting.length + c.pay.vcmDcSetting.length + c.pay.flashMode.length

/-- A launch of INITIALIZE that succeeds after `j` busy readings: the block Idle with its own scripts, INITIALIZE the host's
oldest request, every answer ok, BUSY busy `j` times after POWER_ON and then idle, `j` below the bound (R233, R312). -/
structure State.InitLaunch (s : State) (j : Nat) (r : HostReq) (rest : List HostReq) : Prop where
  rom : s.romIntact
  idle : s.cur = none
  asked : s.hostq = r :: rest
  code : r.code = hostCode .init
  okBefore : s.okFrom 0 (3 + 2 * initFramesBefore s.cfg)
  busy : s.busyFrom (3 + 2 * initFramesBefore s.cfg) j
  idleRead : s.idleAt (3 + 2 * initFramesBefore s.cfg + j)
  okAfter : s.okFrom (4 + 2 * initFramesBefore s.cfg + j) (2 * initFramesAfter s.cfg)
  bound : ∀ m, s.cfg.maxPolls = some m → j < m

/-- RENDER and CLEAR up to their wait, sending `bs` (R234, R235). -/
def refreshEvents (c : Config) (bs : List Byte) : List Event :=
  commandEvents c c.ops.dataStartTransmission1 ++ burstEvents c bs ++ commandEvents c c.ops.displayRefresh ++ [.delay 100]

/-! ### What an exception leaves, and what no rule reads -/

/-- `raise TransportFailure(a)` in the operation `op` (R271, R280), written out. -/
def transportFailed (op : HostOp) (a : Action) (s : State) : State :=
  { s with
    faults := s.faults ++ [{ op := op, exc := .transportFailure op s.upc a }]
    res := .exc (.transportFailure op s.upc a)
    st := .uninitialized
    cur := none
    upc := 0
    polls := 0 }

/-- Everything but `res`, `trace`, `faults` and the latches: what the rules read (R29, R30, R35, R289). -/
def State.erase (s : State) : State :=
  { s with res := .ok, trace := [], faults := [], dcLatch := none, rstLatch := none }

/-- The outcome with its next state erased. -/
def eraseOutcome : Host.Outcome State Fault Refusal → Host.Outcome State Fault Refusal
  | .next s => .next s.erase
  | .fault f => .fault f
  | .refused r => .refused r

/-! ### Invariants -/

/-- R42 (f), R126: every `TxByte` and `TxBurst` is immediately preceded by a `SetPin(DC, _)` answered ok, before a burst at
the data level. `prev` is the action before. -/
def selectedFrom (c : Config) : Option Event → List Event → Bool
  | _, [] => true
  | prev, e :: es =>
    (match e, prev with
      | .txByte _ _, some (.setPin .dc _ true) => true
      | .txByte _ _, _ => false
      | .txBurst _ _, some (.setPin .dc l true) => l == c.dataLevel
      | .txBurst _ _, _ => false
      | _, _ => true) && selectedFrom c (some e) es

/-- What every step keeps, whatever the script ROM holds. -/
structure State.Inv (s : State) : Prop where
  /-- R42 (a). -/
  idleAtZero : s.cur = none → s.upc = 0 ∧ s.polls = 0
  /-- R28: `polls` is 0 when no wait is in progress; a wait in progress has `upc` at a WAIT word. -/
  pollsOnlyInWait : s.polls ≠ 0 → ∃ op, s.cur = some op ∧ fetchWord s op = some (.uop 0x400#12)
  /-- FB keeps its canonical form. -/
  fbCanonical : Memory.wf s.fb = true
  /-- R52: FB has the indices 0 to FB_LEN - 1. -/
  fbInRange : ∀ c, c ∈ s.fb → c.1 < fbLen
  /-- R31: `fb_valid` means written in full. -/
  fbFull : s.fbValid = true → ∀ i, i < fbLen → (Memory.read s.fb i).isSome = true
  /-- R42 (f). -/
  selected : selectedFrom s.cfg none s.trace = true

/-- What every step of the block with its own scripts keeps. -/
structure State.ScriptInv (s : State) : Prop where
  /-- R66. -/
  rom : s.romIntact
  /-- R24: `upc` never runs past the last index. -/
  inScript : ∀ op, s.cur = some op → s.upc < (script s.cfg op).length
  /-- R31: FB is written before it is sent. -/
  fbReady : s.cur = some .render ∨ s.cur = some .clear → 0 < s.upc → s.fbValid = true
  /-- R42 (d). -/
  fbPixels : s.fbValid = true → ∀ c, c ∈ s.fb → legalByte c.2 = true
  /-- R237: RENDER and CLEAR run in Ready only. -/
  renderReady : s.cur = some .render ∨ s.cur = some .clear → s.st = .ready
  /-- R236: SLEEP runs in Ready up to its SETST and is Asleep at its END. -/
  sleepState : s.cur = some .sleep → s.st = if s.upc + 1 < (script s.cfg .sleep).length then .ready else .asleep
  /-- R233: from its first step on INITIALIZE is Uninitialized, up to its SETST Ready before END. -/
  initState : s.cur = some .init → 0 < s.upc →
    s.st = if s.upc + 1 < (script s.cfg .init).length then .uninitialized else .ready

end Sys2Proof.Machine
end

