-- ==== Sys2Proof/Certificates/Slice0/Obligations.lean ====
section
/-! DEFINITION. The statements for the provers, from the numbered rules of spec/. "Answers ok" means the transport's answers
(R32), scheduled or free; a statement holds for every answer the state may hold. -/

open Sys2Proof Sys2Proof.Machine

/-! ### The script steps -/

/-- R242, R121: CMD is `0x1` then `op`; it performs `sendCommand(op)`: DC to the command level, then one byte, which is one
command frame; a failed `SetPin` leaves the latch unknown and no byte is attempted. `upc` advances by R25 and a failure
leaves what R273 and R280 say (spec decisions D25, D18, D13, D14; log entry 17). -/
def Obligations.CmdStepSendsOneCommandByte : Prop :=
  (∀ K a, encode K (.cmd a) = .uop (0x1#4 ++ a)) ∧
  ∀ (a : Byte) (op : HostOp) (s : State), s.cur = some op →
    (s.answer.ok = true → s.consume.answer.ok = true →
      exec (.cmd a) s = .next { s.consume.consume with
        dcLatch := some s.cfg.cmdLevel
        trace := s.trace ++ [.setPin .dc s.cfg.cmdLevel true, .txByte a true]
        upc := s.upc + 1 }) ∧
    (s.answer.ok = true → s.consume.answer.ok = false →
      exec (.cmd a) s = .next (transportFailed op (.txByte a) { s.consume.consume with
        dcLatch := some s.cfg.cmdLevel
        trace := s.trace ++ [.setPin .dc s.cfg.cmdLevel true, .txByte a false] })) ∧
    (s.answer.ok = false →
      exec (.cmd a) s = .next (transportFailed op (.setPin .dc s.cfg.cmdLevel) { s.consume with
        dcLatch := none
        trace := s.trace ++ [.setPin .dc s.cfg.cmdLevel false] })) ∧
    ∀ got, framesOf s.cfg got (s.trace ++ [.setPin .dc s.cfg.cmdLevel true, .txByte a true]) =
      framesOf s.cfg got s.trace ++ [{ sel := some false, b := a }]

/-- R247, R122: DAT is `0x2` then `v`; it performs `sendData(v)`: DC to the data level, then one byte, which is one data
frame. `upc` advances by R25 and a failure leaves what R273 and R280 say (spec decisions D25, D18, D13, D14; log entry 17).
-/
def Obligations.DatStepSendsOneDataByte : Prop :=
  (∀ K a, encode K (.dat a) = .uop (0x2#4 ++ a)) ∧
  ∀ (a : Byte) (op : HostOp) (s : State), s.cur = some op →
    (s.answer.ok = true → s.consume.answer.ok = true →
      exec (.dat a) s = .next { s.consume.consume with
        dcLatch := some s.cfg.dataLevel
        trace := s.trace ++ [.setPin .dc s.cfg.dataLevel true, .txByte a true]
        upc := s.upc + 1 }) ∧
    (s.answer.ok = true → s.consume.answer.ok = false →
      exec (.dat a) s = .next (transportFailed op (.txByte a) { s.consume.consume with
        dcLatch := some s.cfg.dataLevel
        trace := s.trace ++ [.setPin .dc s.cfg.dataLevel true, .txByte a false] })) ∧
    (s.answer.ok = false →
      exec (.dat a) s = .next (transportFailed op (.setPin .dc s.cfg.dataLevel) { s.consume with
        dcLatch := none
        trace := s.trace ++ [.setPin .dc s.cfg.dataLevel false] })) ∧
    ∀ got, framesOf s.cfg got (s.trace ++ [.setPin .dc s.cfg.dataLevel true, .txByte a true]) =
      framesOf s.cfg got s.trace ++ [{ sel := some true, b := a }]

/-- R243, R123: BURST is `0x300`; it sends all of FB, index 0 first, under one DC assertion; a failed burst delivered a
proper prefix; in every script a PACK or FILL stands before it, so FB was written. Where `fb_valid` is 0 it runs too, and a
byte FB was never written reads as a free value: the model's choice (log entry 3). `upc` advances by R25 and a failure
leaves what R273 and R280 say (spec decisions D25, D18, D13, D14; log entry 17). -/
def Obligations.BurstStepSendsWholeFramebuffer : Prop :=
  (∀ K, encode K .burst = .uop 0x300#12) ∧
  (∀ (cfg : Config) (op : HostOp) (n : Nat), (script cfg op)[n]? = some .burst →
    ∃ m, m < n ∧ ((script cfg op)[m]? = some .pack ∨ ∃ v, (script cfg op)[m]? = some (.fill v))) ∧
  ∀ (op : HostOp) (s : State), s.cur = some op →
    s.fbBytes.length = fbLen ∧
    (∀ i v, i < fbLen → Memory.read s.fb i = some v → s.fbBytes[i]? = some v) ∧
    (s.answer.ok = true → s.consume.answer.ok = true →
      exec .burst s = .next { s.consume.consume with
        dcLatch := some s.cfg.dataLevel
        trace := s.trace ++ [.setPin .dc s.cfg.dataLevel true, .txBurst s.fbBytes none]
        upc := s.upc + 1 }) ∧
    (s.answer.ok = true → s.consume.answer.ok = false →
      ∃ k, k < fbLen ∧ exec .burst s = .next (transportFailed op (.txBurst s.fbBytes) { s.consume.consume with
        dcLatch := some s.cfg.dataLevel
        trace := s.trace ++ [.setPin .dc s.cfg.dataLevel true, .txBurst s.fbBytes (some k)] })) ∧
    (s.answer.ok = false →
      exec .burst s = .next (transportFailed op (.setPin .dc s.cfg.dataLevel) { s.consume with
        dcLatch := none
        trace := s.trace ++ [.setPin .dc s.cfg.dataLevel false] }))

/-- R240: PIN is `0x6` with `a[4]` the pin and `a[0]` the level, RST in every script; it drives the pin and writes its
latch, unknown after a failure. `upc` advances by R25 and a failure leaves what R273 and R280 say (spec decisions D25, D18,
D13, D14; log entry 17). -/
def Obligations.PinStepDrivesPinAndLatch : Prop :=
  (∀ K, encode K (.pin .rst .low) = .uop 0x600#12 ∧ encode K (.pin .rst .high) = .uop 0x601#12 ∧
    encode K (.pin .dc .low) = .uop 0x610#12 ∧ encode K (.pin .dc .high) = .uop 0x611#12) ∧
  (∀ (cfg : Config) (op : HostOp) (p : OutPin) (l : Level), Instr.pin p l ∈ script cfg op → p = .rst) ∧
  ∀ (l : Level) (op : HostOp) (s : State), s.cur = some op →
    (s.answer.ok = true →
      exec (.pin .rst l) s = .next { s.consume with
        rstLatch := some l, trace := s.trace ++ [.setPin .rst l true], upc := s.upc + 1 } ∧
      exec (.pin .dc l) s = .next { s.consume with
        dcLatch := some l, trace := s.trace ++ [.setPin .dc l true], upc := s.upc + 1 }) ∧
    (s.answer.ok = false →
      exec (.pin .rst l) s = .next (transportFailed op (.setPin .rst l) { s.consume with
        rstLatch := none, trace := s.trace ++ [.setPin .rst l false] }) ∧
      exec (.pin .dc l) s = .next (transportFailed op (.setPin .dc l) { s.consume with
        dcLatch := none, trace := s.trace ++ [.setPin .dc l false] }))

/-- R241: DLY is `0x5` then `n`, 100 or 200 in the scripts; it appends `Delay(n)` and writes nothing else but `upc`, which
advances by R25 (spec decision D25; log entry 17); it has no exception. -/
def Obligations.DlyStepOnlyDelays : Prop :=
  (∀ K a, encode K (.dly a) = .uop (0x5#4 ++ a)) ∧
  (∀ (cfg : Config) (op : HostOp) (a : Byte), Instr.dly a ∈ script cfg op → a.toNat = 100 ∨ a.toNat = 200) ∧
  ∀ (a : Byte) (op : HostOp) (s : State), s.cur = some op →
    exec (.dly a) s = .next { s with trace := s.trace ++ [.delay a.toNat], upc := s.upc + 1 }

/-- R244, R201: PACK is `0x700`, only step 0 of RENDER; with a bitmap of exactly the panel's size it writes `pack(bm)` to
FB, sets `fb_valid` and touches nothing else but `upc`; any other size raises WrongDimensions with FB and `fb_valid` as they
were and no transport action. `upc` advances by R25 and the exception is taken by R280 (spec decisions D25, D13, D14; log
entry 17). -/
def Obligations.PackStepPacksOrRejects : Prop :=
  (∀ K, encode K .pack = .uop 0x700#12) ∧
  (∀ (cfg : Config) (op : HostOp) (n : Nat), (script cfg op)[n]? = some .pack ↔ op = .render ∧ n = 0) ∧
  ∀ (op : HostOp) (s : State), s.cur = some op →
    (s.bm.width = 640 → s.bm.height = 384 →
      ∃ m, exec .pack s = .next { s with fb := m, fbValid := true, upc := s.upc + 1 } ∧
        (∀ i, i < fbLen → Memory.read m i = some (packedByte s.bm i)) ∧
        (∀ i, fbLen ≤ i → Memory.read m i = Memory.read s.fb i)) ∧
    (s.bm.width ≠ 640 ∨ s.bm.height ≠ 384 →
      exec .pack s = .next { s with
        faults := s.faults ++ [{ op := op, exc := .wrongDimensions s.bm.width s.bm.height }]
        res := .exc (.wrongDimensions s.bm.width s.bm.height)
        cur := none
        upc := 0
        polls := 0 })

/-- R245 (spec decision D27): FILL is `0x8` then `v`; every byte of FB becomes `v`, `fb_valid` is set, nothing else changes
but `upc`, which advances by R25 (spec decision D25; log entry 17); it has no exception. -/
def Obligations.FillStepFillsFramebuffer : Prop :=
  (∀ K v, encode K (.fill v) = .uop (0x8#4 ++ v)) ∧
  ∀ (v : Byte) (op : HostOp) (s : State), s.cur = some op →
    ∃ m, exec (.fill v) s = .next { s with fb := m, fbValid := true, upc := s.upc + 1 } ∧
      (∀ i, i < fbLen → Memory.read m i = some v) ∧
      (∀ i, fbLen ≤ i → Memory.read m i = Memory.read s.fb i)

/-- R246: SETST is `0x9` then the state code; it writes `st` and nothing else but `upc`, which advances by R25 (spec
decision D25; log entry 17); no transport action and no exception; it occurs three times in the scripts. -/
def Obligations.SetstStepWritesOnlySt : Prop :=
  (∀ K, encode K (.setst .uninitialized) = .uop 0x900#12 ∧ encode K (.setst .ready) = .uop 0x901#12 ∧
    encode K (.setst .asleep) = .uop 0x902#12) ∧
  (∀ (c : CtrlState) (op : HostOp) (s : State), s.cur = some op →
    exec (.setst c) s = .next { s with st := c, upc := s.upc + 1 }) ∧
  ∀ (cfg : Config) (c : CtrlState),
    (script cfg .init).count (.setst c) = (if c = .asleep then 0 else 1) ∧
    (script cfg .render).count (.setst c) = 0 ∧ (script cfg .clear).count (.setst c) = 0 ∧
    (script cfg .sleep).count (.setst c) = (if c = .asleep then 1 else 0)

/-- R249 (spec decision D25; log entry 17): END is `0x000`; `res` becomes OK, `cur` Idle, `upc` 0, nothing else changes;
every script has exactly one END, as its last step. -/
def Obligations.EndStepCompletesOperation : Prop :=
  (∀ K, encode K .endOp = .uop 0x000#12) ∧
  (∀ (op : HostOp) (s : State), s.cur = some op →
    exec .endOp s = .next { s with res := .ok, cur := none, upc := 0 }) ∧
  ∀ (cfg : Config) (op : HostOp), (script cfg op).getLast? = some .endOp ∧ (script cfg op).count .endOp = 1

/-- R248 with the iteration of R142 and R25 (spec decisions D6, D7, D25; one poll per step is log entry 11): one read; idle
ends the wait with `polls` 0 and no delay; busy counts and delays 100 ms with `upc` unchanged, or at the bound raises
Timeout with no delay; a failed read raises TransportFailure with no delay. What an exception leaves is R280 (spec decisions
D13, D14; log entry 17). -/
def Obligations.WaitStepIsOnePoll : Prop :=
  (∀ K, encode K .wait = .uop 0x400#12) ∧
  ∀ (op : HostOp) (s : State), s.cur = some op →
    (s.answer.ok = true → s.answer.level = s.cfg.idleLevel →
      exec .wait s = .next { s.consume with
        polls := 0, trace := s.trace ++ [.readPin (some s.cfg.idleLevel)], upc := s.upc + 1 }) ∧
    (s.answer.ok = true → s.answer.level ≠ s.cfg.idleLevel → (∀ m, s.cfg.maxPolls = some m → s.polls + 1 < m) →
      exec .wait s = .next { s.consume with
        polls := s.polls + 1
        trace := s.trace ++ [.readPin (some s.cfg.busyLevel), .delay 100] }) ∧
    (∀ m, s.answer.ok = true → s.answer.level ≠ s.cfg.idleLevel → s.cfg.maxPolls = some m → m ≤ s.polls + 1 →
      exec .wait s = .next { s.consume with
        trace := s.trace ++ [.readPin (some s.cfg.busyLevel)]
        faults := s.faults ++ [{ op := op, exc := .timeout op s.upc (s.polls + 1) }]
        res := .exc (.timeout op s.upc (s.polls + 1))
        st := .uninitialized
        cur := none
        upc := 0
        polls := 0 }) ∧
    (s.answer.ok = false →
      exec .wait s = .next (transportFailed op .readPin { s.consume with trace := s.trace ++ [.readPin none] }))

/-! ### Frames -/

/-- R121 at frame level, for each of the 38 opcodes of R95 and R96: the command frame is one `sendCommand` of the opcode's
byte. That a frame is executed, the 23 unsent ones too, is the model's reading (log entry 9). `upc` advances by R25 and a
failure leaves what R273 and R280 say (spec decisions D25, D18, D13, D14; log entry 17). -/
def Obligations.CommandFrameSendsItsOpcode : Prop :=
  ∀ (n : OpName) (op : HostOp) (s : State), s.cur = some op →
    (s.answer.ok = true → s.consume.answer.ok = true →
      exec (.command n) s = .next { s.consume.consume with
        dcLatch := some s.cfg.cmdLevel
        trace := s.trace ++ [.setPin .dc s.cfg.cmdLevel true, .txByte (s.cfg.ops.byte n) true]
        upc := s.upc + 1 }) ∧
    (s.answer.ok = true → s.consume.answer.ok = false →
      exec (.command n) s = .next (transportFailed op (.txByte (s.cfg.ops.byte n)) { s.consume.consume with
        dcLatch := some s.cfg.cmdLevel
        trace := s.trace ++ [.setPin .dc s.cfg.cmdLevel true, .txByte (s.cfg.ops.byte n) false] })) ∧
    (s.answer.ok = false →
      exec (.command n) s = .next (transportFailed op (.setPin .dc s.cfg.cmdLevel) { s.consume with
        dcLatch := none
        trace := s.trace ++ [.setPin .dc s.cfg.cmdLevel false] }))

/-- R122 at frame level: the data frame is one `sendData`. That a frame is executed is the model's reading (log entry 9).
`upc` advances by R25 and a failure leaves what R273 and R280 say (spec decisions D25, D18, D13, D14; log entry 17). -/
def Obligations.DataFrameSendsItsByte : Prop :=
  ∀ (b : Byte) (op : HostOp) (s : State), s.cur = some op →
    (s.answer.ok = true → s.consume.answer.ok = true →
      exec (.data b) s = .next { s.consume.consume with
        dcLatch := some s.cfg.dataLevel
        trace := s.trace ++ [.setPin .dc s.cfg.dataLevel true, .txByte b true]
        upc := s.upc + 1 }) ∧
    (s.answer.ok = true → s.consume.answer.ok = false →
      exec (.data b) s = .next (transportFailed op (.txByte b) { s.consume.consume with
        dcLatch := some s.cfg.dataLevel
        trace := s.trace ++ [.setPin .dc s.cfg.dataLevel true, .txByte b false] })) ∧
    (s.answer.ok = false →
      exec (.data b) s = .next (transportFailed op (.setPin .dc s.cfg.dataLevel) { s.consume with
        dcLatch := none
        trace := s.trace ++ [.setPin .dc s.cfg.dataLevel false] }))

/-- R36, R80, R82: on any trace, `sendCommand` adds one command frame, `sendData` one data frame, a burst one data frame per
byte in index order, a failed burst those of its prefix, a failed `TxByte` its frame or nothing, as `got` says at its place
in the trace (log entry 4); a pin action, a read of BUSY and a delay add none and but for DC leave the selection; after a
failed `SetPin(DC)`, and at creation, the selection is unknown. -/
def Obligations.FramerActionsAddTheirFrames : Prop :=
  ∀ (c : Config) (got : Nat → Bool) (tr : List Event) (b : Byte) (bs : List Byte) (k : Nat) (p : OutPin) (l : Level)
    (ok : Bool) (r : Option Level) (ms : Nat),
    framesOf c got (tr ++ commandEvents c b) = framesOf c got tr ++ [{ sel := some false, b := b }] ∧
    framesOf c got (tr ++ dataEvents c b) = framesOf c got tr ++ [{ sel := some true, b := b }] ∧
    framesOf c got (tr ++ burstEvents c bs) = framesOf c got tr ++ bs.map (fun x => { sel := some true, b := x }) ∧
    framesOf c got (tr ++ [.setPin .dc c.dataLevel true, .txBurst bs (some k)]) =
      framesOf c got tr ++ (bs.take k).map (fun x => { sel := some true, b := x }) ∧
    framesOf c got (tr ++ [.setPin .dc c.cmdLevel true, .txByte b false]) =
      framesOf c got tr ++ (if got (tr.length + 1) then [{ sel := some false, b := b }] else []) ∧
    framesOf c got (tr ++ [.setPin .dc c.dataLevel true, .txByte b false]) =
      framesOf c got tr ++ (if got (tr.length + 1) then [{ sel := some true, b := b }] else []) ∧
    framesOf c got (tr ++ [.setPin p l ok]) = framesOf c got tr ∧
    framesOf c got (tr ++ [.readPin r]) = framesOf c got tr ∧
    framesOf c got (tr ++ [.delay ms]) = framesOf c got tr ∧
    framesOf c got (tr ++ [.setPin .dc c.cmdLevel true, .setPin .rst l ok, .readPin r, .delay ms, .txByte b true]) =
      framesOf c got tr ++ [{ sel := some false, b := b }] ∧
    framesOf c got (tr ++ [.setPin .dc c.dataLevel true, .setPin .rst l ok, .readPin r, .delay ms, .txBurst bs none]) =
      framesOf c got tr ++ bs.map (fun x => { sel := some true, b := x }) ∧
    framesOf c got (tr ++ [.setPin .dc l false, .txByte b true]) = framesOf c got tr ++ [{ sel := none, b := b }] ∧
    framesOf c got (tr ++ [.setPin .dc l false, .txBurst bs none]) =
      framesOf c got tr ++ bs.map (fun x => { sel := none, b := x }) ∧
    framesOf c got [.txByte b true] = [{ sel := none, b := b }]

/-! ### Accepting operations, stepping -/

/-- R233, R237: INITIALIZE is accepted in every ControllerState; acceptance by R232 (spec decision D15; log entry 17). -/
def Obligations.InitializeAcceptedInEveryState : Prop :=
  ∀ s : State, s.cur = none →
    exec .hostInitialize s = .next { s with cur := some .init, upc := 0, polls := 0 }

/-- R234 to R237: RENDER, CLEAR and SLEEP are accepted in Ready; acceptance by R232 (spec decision D15; log entry 17). -/
def Obligations.RenderClearSleepAcceptedInReady : Prop :=
  ∀ s : State, s.cur = none → s.st = .ready →
    exec .hostRender s = .next { s with cur := some .render, upc := 0, polls := 0 } ∧
    exec .hostClear s = .next { s with cur := some .clear, upc := 0, polls := 0 } ∧
    exec .hostSleep s = .next { s with cur := some .sleep, upc := 0, polls := 0 }

/-- R275 (its first cause), R232 (spec decision D15: the state is checked before the dimensions): RENDER, CLEAR and SLEEP
outside Ready raise WrongState, taken by R280 (spec decisions D13, D14; log entry 17): `res` and `faults` record it, `st`
and everything else stays, nothing is sent. -/
def Obligations.OperationsOutsideReadyRejected : Prop :=
  ∀ (op : HostOp) (s : State), s.cur = none → s.st ≠ .ready → op ≠ .init →
    exec (.ofHostOp op) s = .next { s with
      faults := s.faults ++ [{ op := op, exc := .wrongState op s.st }]
      res := .exc (.wrongState op s.st)
      upc := 0
      polls := 0 }

/-- R322 (spec decision D24; log entry 14): while an operation is in progress the model refuses another. -/
def Obligations.OperationWhileBusyRefused : Prop :=
  ∀ (op op' : HostOp) (s : State), s.cur = some op' → exec (.ofHostOp op) s = .refused .hostBusy

/-- R25 (spec decision D25), from the script ROM of R66 (that it holds words is log entry 7): while an operation is in
progress a step executes the instruction the word at `upc` decodes to, at that state. -/
def Obligations.StepRunsScriptWordAtUpc : Prop :=
  ∀ (op : HostOp) (w : CodeWord) (i : Instr) (s : State), s.cur = some op → (s.rom.words op)[s.upc]? = some w →
    decode s.cfg.ops w = .ok i → step s = exec i s

/-- R22, R27, R32: while Idle a step executes the operation a request of the host names. The model's choices: requests stand
in a queue, the oldest is taken, with none nothing changes (log entry 20), and a request's bitmap stays at the port from the
step that takes it (log entry 13). -/
def Obligations.IdleStepRunsOldestRequest : Prop :=
  ∀ s : State, s.cur = none →
    (∀ op r rest, s.hostq = r :: rest → r.code = hostCode op →
      step s = exec (.ofHostOp op) { s with hostq := rest, bm := r.bm.getD s.bm }) ∧
    (s.hostq = [] → step s = .next s)

/-- R25 (spec decision D25; one poll per step is log entry 11), whole machine: a step of an operation in progress ends the
operation with `upc` 0, or stays at a WAIT whose read was busy, or advances `upc` by one. -/
def Obligations.UpcAdvancesRepeatsOrEnds : Prop :=
  ∀ (op : HostOp) (s t : State), s.cur = some op → step s = .next t →
    (t.cur = none ∧ t.upc = 0) ∨
    (t.cur = some op ∧ t.upc = s.upc ∧ fetchWord s op = some (.uop 0x400#12) ∧
      t.trace = s.trace ++ [.readPin (some s.cfg.busyLevel), .delay 100]) ∨
    (t.cur = some op ∧ t.upc = s.upc + 1)

/-! ### Exceptions -/

/-- R280 (spec decisions D13, D14), whole machine: whenever an instruction records an exception, exactly one entry is
appended, `res` holds it, `st` becomes Uninitialized on TransportFailure and Timeout and stays on PreconditionViolation, the
block is Idle with `upc` and `polls` 0, and FB, `fb_valid`, the parameters and the host's inputs stay. -/
def Obligations.ExceptionEntryIsUniform : Prop :=
  ∀ (i : Instr) (s t : State), exec i s = .next t → t.faults ≠ s.faults →
    ∃ op e, t.faults = s.faults ++ [{ op := op, exc := e }] ∧ t.res = .exc e ∧
      t.st = (if e.code = 2#2 then s.st else .uninitialized) ∧
      (∀ o, s.cur = some o → op = o) ∧
      t.cur = none ∧ t.upc = 0 ∧ t.polls = 0 ∧ t.fb = s.fb ∧ t.fbValid = s.fbValid ∧
      t.cfg = s.cfg ∧ t.rom = s.rom ∧ t.hostq = s.hostq ∧ t.bm = s.bm

/-- R276 (for a frame, log entry 9): DLY, FILL, SETST and END raise nothing; PACK raises only WrongDimensions; WAIT only
TransportFailure or Timeout; every other step and every frame only TransportFailure; acceptance only WrongState,
INITIALIZE's nothing. -/
def Obligations.WhichInstructionRaisesWhat : Prop :=
  ∀ (i : Instr) (s t : State) (op : HostOp) (e : Exc), exec i s = .next t →
    t.faults = s.faults ++ [{ op := op, exc := e }] →
    match i with
    | .dly _ | .fill _ | .setst _ | .endOp | .hostInitialize => False
    | .pack => e = .wrongDimensions s.bm.width s.bm.height
    | .wait => e.code = 1#2 ∨ e.code = 3#2
    | .hostRender => e = .wrongState .render s.st
    | .hostClear => e = .wrongState .clear s.st
    | .hostSleep => e = .wrongState .sleep s.st
    | _ => e.code = 1#2

/-- R276, R286 (spec decision D15), R271 (D16): a step that sends or drives something raises TransportFailure only after a
failed action, which is the last action of the trace. -/
def Obligations.TransportFailureFollowsFailedAction : Prop :=
  ∀ (i : Instr) (s t : State) (op o : HostOp) (u : Nat) (a : Action), exec i s = .next t →
    t.faults = s.faults ++ [{ op := op, exc := .transportFailure o u a }] →
    o = op ∧ u = s.upc ∧
    match a with
    | .setPin p l => t.trace.getLast? = some (.setPin p l false)
    | .readPin => t.trace.getLast? = some (.readPin none)
    | .txByte b => t.trace.getLast? = some (.txByte b false)
    | .txBurst bs => ∃ k, t.trace.getLast? = some (.txBurst bs (some k)) ∧ k < max 1 bs.length

/-! ### What each piece of state is written by -/

/-- R21: `st` is written only by SETST and by exception entry. -/
def Obligations.StWrittenOnlyBySetstAndExceptions : Prop :=
  ∀ (i : Instr) (s t : State), exec i s = .next t → t.st ≠ s.st →
    i = .setst t.st ∨ (t.st = .uninitialized ∧ t.faults ≠ s.faults)

/-- R29 (spec decision D16): `res` is written only by END and by exception entry. -/
def Obligations.ResWrittenOnlyByEndAndExceptions : Prop :=
  ∀ (i : Instr) (s t : State), exec i s = .next t → t.res ≠ s.res →
    (i = .endOp ∧ t.res = .ok) ∨ (∃ op e, t.res = .exc e ∧ t.faults = s.faults ++ [{ op := op, exc := e }])

/-- R31 (spec decisions D21, D27): FB and `fb_valid` are written only by PACK and FILL. -/
def Obligations.FramebufferWrittenOnlyByPackAndFill : Prop :=
  ∀ (i : Instr) (s t : State), exec i s = .next t → (∀ v, i ≠ .fill v) → i ≠ .pack →
    t.fb = s.fb ∧ t.fbValid = s.fbValid ∧ ∀ a, Memory.read t.fb a = Memory.read s.fb a

/-- R30, R240 to R247: `dc_latch` is written only by CMD, DAT, BURST, the frames and PIN DC; `rst_latch` only by PIN RST. -/
def Obligations.LatchesWrittenOnlyByTheirActions : Prop :=
  ∀ (i : Instr) (s t : State), exec i s = .next t →
    (t.rstLatch ≠ s.rstLatch → ∃ l, i = .pin .rst l) ∧
    (t.dcLatch ≠ s.dcLatch →
      (∃ l, i = .pin .dc l) ∨ (∃ b, i = .cmd b) ∨ (∃ b, i = .dat b) ∨ i = .burst ∨ (∃ n, i = .command n) ∨ ∃ b, i = .data b)

/-- R35 (spec decision D26), R42 (e), R289 (D14): every step only appends to `trace` and `faults`. -/
def Obligations.TraceAndFaultsOnlyGrow : Prop :=
  ∀ s t : State, step s = .next t → (∃ es, t.trace = s.trace ++ es) ∧ ∃ fs, t.faults = s.faults ++ fs

/-- R37, R66, R6 (the ROM in the state is log entry 7): no step writes the parameters or a script. -/
def Obligations.ParametersAndScriptsNeverWritten : Prop :=
  ∀ s t : State, step s = .next t → t.cfg = s.cfg ∧ t.rom = s.rom

/-- R29, R30, R35, R289 (spec decisions D14, D16, D26): no rule reads `res`, `trace`, `faults` or a latch. States that
differ only there take steps that do the same: both stop alike, or both answer a next state that is equal elsewhere, with
the same events appended to `trace`, the same records appended to `faults`, and `res` and each latch either left in both or
written in both with the same value. -/
def Obligations.HistoriesAndLatchesNeverRead : Prop :=
  ∀ s t : State, s.erase = t.erase →
    eraseOutcome (step s) = eraseOutcome (step t) ∧
    ∀ s' t', step s = .next s' → step t = .next t' →
      (∃ es, s'.trace = s.trace ++ es ∧ t'.trace = t.trace ++ es) ∧
      (∃ fs, s'.faults = s.faults ++ fs ∧ t'.faults = t.faults ++ fs) ∧
      (∃ w : Option Result, s'.res = w.getD s.res ∧ t'.res = w.getD t.res) ∧
      (∃ w : Option (Option Level), s'.dcLatch = w.getD s.dcLatch ∧ t'.dcLatch = w.getD t.dcLatch) ∧
      ∃ w : Option (Option Level), s'.rstLatch = w.getD s.rstLatch ∧ t'.rstLatch = w.getD t.rstLatch

/-! ### Invariants -/

/-- R41 (spec decisions D14, D21, D26; the model's fields beside R20's are log entry 15), R42: both invariants hold after
creation. -/
def Obligations.InvariantsHoldAtReset : Prop := State.reset.Inv ∧ State.reset.ScriptInv

/-- R42 (a), (f), R28, R31: every step from any state that meets the invariant keeps it, whatever the script ROM holds. -/
def Obligations.InvariantKeptByEveryStep : Prop := ∀ s t : State, s.Inv → step s = .next t → t.Inv

/-- R42 (b) to (d), R24, R31, R66, R233 (spec decision D12), R236, R237: every step of the block with its own scripts keeps
the invariant. -/
def Obligations.ScriptInvariantKeptByEveryStep : Prop :=
  ∀ s t : State, s.Inv → s.ScriptInv → step s = .next t → t.ScriptInv

/-- R24, R97, R276 (the model's stops are log entry 14): with its own scripts the block never stops: no fault and no refusal
is reachable. -/
def Obligations.BlockWithItsScriptsNeverStops : Prop := ∀ s : State, s.ScriptInv → ∃ t, step s = .next t

/-- R21, R231: `st` becomes Ready only at the last but one step of INITIALIZE, and Asleep only at that of SLEEP. -/
def Obligations.ReadyAndAsleepEnteredOnlyAtOperationEnd : Prop :=
  ∀ s t : State, s.ScriptInv → step s = .next t → t.st ≠ s.st →
    (t.st = .ready → s.cur = some .init ∧ s.upc + 2 = (script s.cfg .init).length) ∧
    (t.st = .asleep → s.cur = some .sleep ∧ s.upc + 2 = (script s.cfg .sleep).length ∧ s.st = .ready)

/-- R161, R233 to R236: with its own scripts only INITIALIZE drives RST. -/
def Obligations.RstDrivenOnlyByInitialize : Prop :=
  ∀ s t : State, s.ScriptInv → step s = .next t → s.cur ≠ some .init → t.rstLatch = s.rstLatch

/-- R249, R33, R91, for every configuration: a script is well-formed (one END, at its end; PIN drives RST only; DLY asks 100 or
200 ms only) and its words decode to its steps. -/
def Obligations.ScriptsAreWellFormed : Prop :=
  ∀ (cfg : Config) (op : HostOp), scriptWellFormed (script cfg op) = true ∧
    ∀ (n : Nat) (i : Instr), (script cfg op)[n]? = some i →
      ∃ w, ((Rom.ofConfig cfg).words op)[n]? = some w ∧ decode cfg.ops w = .ok i

/-! ### The busy synchronizer over many steps -/

/-- R143 (derived there from R142, spec decisions D6, D7): a wait that sees `j` busy readings and then an idle one takes `2
* j + 1` actions and leaves `polls` 0. That it takes `j + 1` steps is the model's one poll per step (log entry 11). -/
def Obligations.WaitReturnsAfterBusyReadings : Prop :=
  ∀ (j : Nat) (op : HostOp) (s : State), s.cur = some op → fetchWord s op = some (.uop 0x400#12) →
    s.busyFrom 0 j → s.idleAt j → (∀ m, s.cfg.maxPolls = some m → s.polls + j < m) →
    runSteps (j + 1) s = .next { s.consumeMany (j + 1) with
      polls := 0, trace := s.trace ++ waitEvents s.cfg j, upc := s.upc + 1 }

/-- R143, R274 (spec decision D7): with `MAX_POLLS = some m` the `m`-th busy reading raises Timeout after `2 * m - 1`
actions; what it leaves, `st` Uninitialized among it, is R280 (spec decisions D13, D14; log entry 17). That it takes `m`
steps is the model's one poll per step (log entry 11). -/
def Obligations.WaitTimesOutAtBound : Prop :=
  ∀ (m : Nat) (op : HostOp) (s : State), s.cur = some op → fetchWord s op = some (.uop 0x400#12) →
    s.cfg.maxPolls = some m → 1 ≤ m → s.polls = 0 → s.busyFrom 0 m →
    runSteps m s = .next { s.consumeMany m with
      trace := s.trace ++ timeoutEvents s.cfg m
      faults := s.faults ++ [{ op := op, exc := .timeout op s.upc m }]
      res := .exc (.timeout op s.upc m)
      st := .uninitialized
      cur := none
      upc := 0
      polls := 0 }

/-- R146: with `MAX_POLLS = none` a panel that stays busy keeps the wait going: after any number of steps the block is still
at it, and the trace has grown by two actions a step, the model's one poll per step (log entry 11). -/
def Obligations.UnboundedWaitHangs : Prop :=
  ∀ (n : Nat) (op : HostOp) (s : State), s.cur = some op → fetchWord s op = some (.uop 0x400#12) →
    s.cfg.maxPolls = none → s.busyFrom 0 n →
    runSteps n s = .next { s.consumeMany n with
      polls := s.polls + n
      trace := s.trace ++ (List.replicate n [Event.readPin (some s.cfg.busyLevel), Event.delay 100]).flatten }

/-- R147 (spec decision D26): under the premise that the panel is eventually idle, an unbounded wait returns. -/
def Obligations.WaitReturnsWhenEventuallyIdle : Prop :=
  ∀ (op : HostOp) (s : State), s.cur = some op → fetchWord s op = some (.uop 0x400#12) → s.cfg.maxPolls = none →
    s.eventuallyIdle → ∃ n t, runSteps n s = .next t ∧ t.cur = some op ∧ t.upc = s.upc + 1 ∧ t.polls = 0

/-! ### Whole operations -/

/-- R160, R233 (spec decision D12), from acceptance to END, with `j` busy readings after POWER_ON: INITIALIZE from any
ControllerState performs the reset pulse, the eleven register commands in their order and the one wait, and ends Ready with
`res` OK; FB, `faults` and the rest stay. The model's choices in it: the request is taken from a queue (log entry 20), its
bitmap stays at the port (log entry 13), and the number of steps counts one poll per step (log entry 11). -/
def Obligations.InitializeRunsToReady : Prop :=
  ∀ (j : Nat) (r : HostReq) (rest : List HostReq) (s : State), s.romIntact → s.cur = none → s.hostq = r :: rest →
    r.code = hostCode .init →
    s.okFrom 0 (3 + 2 * initFramesBefore s.cfg) →
    s.busyFrom (3 + 2 * initFramesBefore s.cfg) j → s.idleAt (3 + 2 * initFramesBefore s.cfg + j) →
    s.okFrom (4 + 2 * initFramesBefore s.cfg + j) (2 * initFramesAfter s.cfg) →
    (∀ m, s.cfg.maxPolls = some m → j < m) →
    runSteps (11 + initFramesBefore s.cfg + initFramesAfter s.cfg + j) s =
      .next { s.consumeMany (4 + 2 * initFramesBefore s.cfg + j + 2 * initFramesAfter s.cfg) with
        st := .ready
        cur := none
        upc := 0
        polls := 0
        dcLatch := some (if s.cfg.pay.flashMode = [] then s.cfg.cmdLevel else s.cfg.dataLevel)
        rstLatch := some .high
        res := .ok
        trace := s.trace ++ initEventsBefore s.cfg ++ waitEvents s.cfg j ++ initEventsAfter s.cfg
        hostq := rest
        bm := r.bm.getD s.bm }

/-- R234, with `j` busy readings: RENDER of a bitmap of the panel's size from Ready sends start, the packed bytes in one
burst, refresh, settles 100 ms, waits, and ends Ready with `res` OK and FB packed. The model's choices in it: the request is
taken from a queue (log entry 20), its bitmap stays at the port (log entry 13), and the number of steps counts one poll per
step (log entry 11). -/
def Obligations.RenderSendsPackedBitmap : Prop :=
  ∀ (j : Nat) (r : HostReq) (rest : List HostReq) (s : State), s.romIntact → s.cur = none → s.st = .ready →
    s.hostq = r :: rest → r.code = hostCode .render → (r.bm.getD s.bm).width = 640 → (r.bm.getD s.bm).height = 384 →
    s.okFrom 0 6 → s.busyFrom 6 j → s.idleAt (6 + j) → (∀ m, s.cfg.maxPolls = some m → j < m) →
    ∃ fb', runSteps (8 + j) s = .next { s.consumeMany (7 + j) with
        cur := none
        upc := 0
        polls := 0
        dcLatch := some s.cfg.cmdLevel
        fb := fb'
        fbValid := true
        res := .ok
        trace := s.trace ++ refreshEvents s.cfg ((List.range fbLen).map (packedByte (r.bm.getD s.bm))) ++ waitEvents s.cfg j
        hostq := rest
        bm := r.bm.getD s.bm } ∧
      ∀ i, i < fbLen → Memory.read fb' i = some (packedByte (r.bm.getD s.bm) i)

/-- R235 (FB as its realisation is spec decision D27), with `j` busy readings: CLEAR from Ready always transmits FB_LEN
bytes `0x33`, whatever FB held, with the framing of RENDER. The model's choices in it: the request is taken from a queue
(log entry 20), its bitmap stays at the port (log entry 13), and the number of steps counts one poll per step (log entry
11). -/
def Obligations.ClearSendsWhiteWhateverFramebufferHeld : Prop :=
  ∀ (j : Nat) (r : HostReq) (rest : List HostReq) (s : State), s.romIntact → s.cur = none → s.st = .ready →
    s.hostq = r :: rest → r.code = hostCode .clear →
    s.okFrom 0 6 → s.busyFrom 6 j → s.idleAt (6 + j) → (∀ m, s.cfg.maxPolls = some m → j < m) →
    ∃ fb', runSteps (8 + j) s = .next { s.consumeMany (7 + j) with
        cur := none
        upc := 0
        polls := 0
        dcLatch := some s.cfg.cmdLevel
        fb := fb'
        fbValid := true
        res := .ok
        trace := s.trace ++ refreshEvents s.cfg (List.replicate fbLen 0x33#8) ++ waitEvents s.cfg j
        hostq := rest
        bm := r.bm.getD s.bm } ∧
      ∀ i, i < fbLen → Memory.read fb' i = some 0x33#8

/-- R236, with `j` busy readings: SLEEP from Ready sends power off, waits, sends deep sleep with its payload byte, and ends
Asleep with `res` OK; RST, FB, `faults` and the rest stay. The model's choices in it: the request is taken from a queue (log
entry 20), its bitmap stays at the port (log entry 13), and the number of steps counts one poll per step (log entry 11). -/
def Obligations.SleepRunsToAsleep : Prop :=
  ∀ (j : Nat) (r : HostReq) (rest : List HostReq) (s : State), s.romIntact → s.cur = none → s.st = .ready →
    s.hostq = r :: rest → r.code = hostCode .sleep →
    s.okFrom 0 2 → s.busyFrom 2 j → s.idleAt (2 + j) → s.okFrom (3 + j) 4 → (∀ m, s.cfg.maxPolls = some m → j < m) →
    runSteps (7 + j) s = .next { s.consumeMany (7 + j) with
      st := .asleep
      cur := none
      upc := 0
      polls := 0
      dcLatch := some s.cfg.dataLevel
      res := .ok
      trace := s.trace ++ commandEvents s.cfg s.cfg.ops.powerOff ++ waitEvents s.cfg j ++
        commandEvents s.cfg s.cfg.ops.deepSleep ++ dataEvents s.cfg s.cfg.pay.deepSleep
      hostq := rest
      bm := r.bm.getD s.bm }

/-- R162, R164 to R177, over the run of INITIALIZE from acceptance to END and read back from the wire by R92: for every
configuration with distinct opcodes (R93) and on any earlier trace, the frames the run adds are exactly the eleven register
commands with their payloads, in the order of R160. -/
def Obligations.InitializeFramesAreElevenRegisterCommands : Prop :=
  ∀ (j : Nat) (r : HostReq) (rest : List HostReq) (s : State), s.InitLaunch j r rest → s.cfg.ops.distinct = true →
    ∃ t fs, runSteps (11 + initFramesBefore s.cfg + initFramesAfter s.cfg + j) s = .next t ∧ t.cur = none ∧ t.st = .ready ∧
      (∀ got, framesOf s.cfg got t.trace = framesOf s.cfg got s.trace ++ fs) ∧
      regCommands s.cfg.ops fs =
        some [(.powerSetting, s.cfg.pay.powerSetting), (.panelSetting, s.cfg.pay.panelSetting),
          (.boosterSoftStart, s.cfg.pay.boosterSoftStart), (.powerOn, []), (.pllControl, s.cfg.pay.pllControl),
          (.temperatureCalibration, s.cfg.pay.temperatureCalibration),
          (.vcomAndDataIntervalSetting, s.cfg.pay.vcomAndDataInterval), (.tconSetting, s.cfg.pay.tconSetting),
          (.tconResolution, [0x02#8, 0x80#8, 0x01#8, 0x80#8]), (.vcmDcSetting, s.cfg.pay.vcmDcSetting),
          (.flashMode, s.cfg.pay.flashMode)]

/-- R181 (derived there; bytes of the default parameters, general knowledge G1 and G2, log entry 1), over the run of
INITIALIZE from acceptance to END with the default parameters, on any earlier trace: the run adds the 28 frames listed. -/
def Obligations.InitializeDefaultFrames : Prop :=
  ∀ (j : Nat) (r : HostReq) (rest : List HostReq) (s : State), s.InitLaunch j r rest → s.cfg = Config.standard →
    ∃ t fs, runSteps (39 + j) s = .next t ∧ t.cur = none ∧ t.st = .ready ∧
      (∀ got, framesOf s.cfg got t.trace = framesOf s.cfg got s.trace ++ fs) ∧
      fs.map Frame.word =
        [some 0x001#9, some 0x137#9, some 0x100#9, some 0x000#9, some 0x1CF#9, some 0x108#9, some 0x006#9, some 0x1C7#9,
          some 0x1CC#9, some 0x128#9, some 0x004#9, some 0x030#9, some 0x13C#9, some 0x041#9, some 0x100#9, some 0x050#9,
          some 0x177#9, some 0x060#9, some 0x122#9, some 0x061#9, some 0x102#9, some 0x180#9, some 0x101#9, some 0x180#9,
          some 0x082#9, some 0x11E#9, some 0x0E5#9, some 0x103#9]

/-! ### Encoding -/

/-- R80, R87, R90, R93: for distinct opcode bytes, decoding the word of any instruction gives that instruction, with every
operand at every value. -/
def Obligations.DecodeInvertsEncode : Prop :=
  ∀ (K : Opcodes) (i : Instr), K.distinct = true → decode K (encode K i) = .ok i

/-- R80, R87, R90, the other direction: a word that decodes is the word of the instruction it decodes to, so no bit of it is
dropped. -/
def Obligations.EncodeInvertsDecode : Prop :=
  ∀ (K : Opcodes) (w : CodeWord) (i : Instr), decode K w = .ok i → encode K i = w

/-- R97, R88: the reserved words are refused: UOP12 kinds 10 to 15, an operand where the kind has none, PIN with other bits,
SETST with other bits or state code 3, and a command byte of no known opcode. -/
def Obligations.ReservedWordsRefused : Prop :=
  ∀ (K : Opcodes) (a : Byte),
    (∀ k : BitVec 4, 10 ≤ k.toNat → decode K (.uop (k ++ a)) = .error .reservedKind) ∧
    (a ≠ 0#8 → ∀ k : BitVec 4, k = 0#4 ∨ k = 3#4 ∨ k = 4#4 ∨ k = 7#4 → decode K (.uop (k ++ a)) = .error .operandNotZero) ∧
    (a &&& 0xEE#8 ≠ 0#8 → decode K (.uop (0x6#4 ++ a)) = .error .pinBits) ∧
    (a &&& 0xFC#8 ≠ 0#8 → decode K (.uop (0x9#4 ++ a)) = .error .operandNotZero) ∧
    decode K (.uop 0x903#12) = .error .reservedState ∧
    ((∀ n, K.byte n ≠ a) → decode K (.frame (0#1 ++ a)) = .error .unknownOpcode)

/-- R93: the default opcode bytes (general knowledge G1, G8, log entry 1) are pairwise distinct, and the default
configuration is well-formed. -/
def Obligations.DefaultOpcodesDistinct : Prop := Opcodes.standard.distinct = true ∧ Config.standard.wellFormed = true

/-- R90, R95, R122, R87 (codes of the words are spec decisions D16, D17; that FLASH_MODE is `0xE5` is a default byte,
general knowledge G1, log entry 1): words written out from the encoding tables decode to what they stand for. -/
def Obligations.SpecWordsDecode : Prop :=
  decode Opcodes.standard (.uop 0x112#12) = .ok (.cmd 0x12#8) ∧
  decode Opcodes.standard (.uop 0x237#12) = .ok (.dat 0x37#8) ∧
  decode Opcodes.standard (.uop 0x5C8#12) = .ok (.dly 200#8) ∧
  decode Opcodes.standard (.uop 0x601#12) = .ok (.pin .rst .high) ∧
  decode Opcodes.standard (.uop 0x902#12) = .ok (.setst .asleep) ∧
  decode Opcodes.standard (.frame 0x0E5#9) = .ok .flashMode ∧
  decode Opcodes.standard (.frame 0x161#9) = .ok (.data 0x61#8) ∧
  decode Opcodes.standard (.host 3#2) = .ok .hostSleep

/-- R233 to R236: the words of the four scripts with the default parameters (general knowledge G1 to G3, log entry 1). -/
def Obligations.DefaultScriptWords : Prop :=
  (Rom.ofConfig Config.standard).initWords =
    [0x900#12, 0x601#12, 0x5C8#12, 0x600#12, 0x5C8#12, 0x601#12, 0x5C8#12, 0x101#12, 0x237#12, 0x200#12, 0x100#12, 0x2CF#12,
      0x208#12, 0x106#12, 0x2C7#12, 0x2CC#12, 0x228#12, 0x104#12, 0x400#12, 0x130#12, 0x23C#12, 0x141#12, 0x200#12,
      0x150#12, 0x277#12, 0x160#12, 0x222#12, 0x161#12, 0x202#12, 0x280#12, 0x201#12, 0x280#12, 0x182#12, 0x21E#12,
      0x1E5#12, 0x203#12, 0x901#12, 0x000#12].map CodeWord.uop ∧
  (Rom.ofConfig Config.standard).renderWords =
    [0x700#12, 0x110#12, 0x300#12, 0x112#12, 0x564#12, 0x400#12, 0x000#12].map CodeWord.uop ∧
  (Rom.ofConfig Config.standard).clearWords =
    [0x833#12, 0x110#12, 0x300#12, 0x112#12, 0x564#12, 0x400#12, 0x000#12].map CodeWord.uop ∧
  (Rom.ofConfig Config.standard).sleepWords =
    [0x102#12, 0x400#12, 0x107#12, 0x2A5#12, 0x902#12, 0x000#12].map CodeWord.uop

/-! ### The packer -/

/-- R202 to R204: luminance 0 to 63 is black with code 0x0, 64 to 255 white with code 0x3, unsigned; the left pixel is in the
high nibble; the four byte values are those of the table. -/
def Obligations.PairByteFollowsThresholdTable : Prop :=
  (∀ l : Byte, (l.toNat < 64 → isBlack l = true ∧ nibbleCode l = 0x0#4) ∧
    (64 ≤ l.toNat → isBlack l = false ∧ nibbleCode l = 0x3#4)) ∧
  ∀ l r : Byte,
    (pairByte l r).toNat = (nibbleCode l).toNat * 16 + (nibbleCode r).toNat ∧
    (l.toNat < 64 → r.toNat < 64 → pairByte l r = 0x00#8) ∧
    (l.toNat < 64 → 64 ≤ r.toNat → pairByte l r = 0x03#8) ∧
    (64 ≤ l.toNat → r.toNat < 64 → pairByte l r = 0x30#8) ∧
    (64 ≤ l.toNat → 64 ≤ r.toNat → pairByte l r = 0x33#8)

/-- R210, R201: for a bitmap of exactly the panel's size `pack` yields FB_LEN = 640/2 * 384 bytes, every nibble `0x0` or
`0x3`; for any other size it yields none. -/
def Obligations.PackYieldsLegalBytesOfFramebufferLength : Prop :=
  ∀ bm : Bitmap,
    (bm.width = 640 → bm.height = 384 → ∃ out, packBitmap bm = some out ∧ out.length = 640 / 2 * 384 ∧
      ∀ b, b ∈ out → (highNibble b = 0x0#4 ∨ highNibble b = 0x3#4) ∧ (lowNibble b = 0x0#4 ∨ lowNibble b = 0x3#4)) ∧
    (bm.width ≠ 640 ∨ bm.height ≠ 384 → packBitmap bm = none)

/-- R211: all-white input packs to all bytes `0x33`, all-black to all bytes `0x00`. -/
def Obligations.PackOfUniformBitmap : Prop :=
  ∀ bm : Bitmap, bm.width = 640 → bm.height = 384 →
    ((∀ x y, x < 640 → y < 384 → 64 ≤ (lum bm x y).toNat) → packBitmap bm = some (List.replicate 122880 0x33#8)) ∧
    ((∀ x y, x < 640 → y < 384 → (lum bm x y).toNat < 64) → packBitmap bm = some (List.replicate 122880 0x00#8))

/-- R213: a single black pixel with all else white flips exactly one nibble, the high one if x is even, the low one if x is
odd, of byte `x/2 + y*width/2`. -/
def Obligations.SingleBlackPixelFlipsOneNibble : Prop :=
  ∀ (bm : Bitmap) (x y : Nat), bm.width = 640 → bm.height = 384 → x < 640 → y < 384 → (lum bm x y).toNat < 64 →
    (∀ x' y', x' < 640 → y' < 384 → (x', y') ≠ (x, y) → 64 ≤ (lum bm x' y').toNat) →
    ∃ out, packBitmap bm = some out ∧
      out[x / 2 + y * (640 / 2)]? = some (if x % 2 = 0 then 0x03#8 else 0x30#8) ∧
      ∀ i, i < 122880 → i ≠ x / 2 + y * (640 / 2) → out[i]? = some 0x33#8

/-- R206, R52: the two nested row-major loops write at every index 0 to 122879 the byte of the closed form, and nothing
beyond. -/
def Obligations.PackLoopEqualsClosedForm : Prop :=
  ∀ (bm : Bitmap) (i : Nat),
    (i < fbLen → Memory.read (packLoop bm) i = some (packedByte bm i)) ∧ (fbLen ≤ i → Memory.read (packLoop bm) i = none)

/-- R208 (derived there from R204): changing the left pixel leaves the low nibble, changing the right one the high nibble. -/
def Obligations.PackedNibblesAreIndependentLanes : Prop :=
  ∀ l l' r r' : Byte, lowNibble (pairByte l r) = lowNibble (pairByte l' r) ∧
    highNibble (pairByte l r) = highNibble (pairByte l r') ∧
    highNibble (pairByte l r) = (if l.toNat < 64 then 0x0#4 else 0x3#4) ∧
    lowNibble (pairByte l r) = (if r.toNat < 64 then 0x0#4 else 0x3#4)
end

