-- ==== Sys2Proof/Laws/Decode.lean ====
section
/-! SUPPORT. The fields of an assembled word, the decoding of each format from its fields, and the lookup of an opcode byte. -/

namespace Sys2Proof

/-! ### Fields of assembled words -/

theorem extract_append_low {n m : Nat} (x : BitVec n) (y : BitVec m) : (x ++ y).extractLsb' 0 m = y := by
  apply BitVec.eq_of_getLsbD_eq
  intro i hi
  simp [BitVec.getLsbD_append, hi]

theorem extract_append_high {n m : Nat} (x : BitVec n) (y : BitVec m) : (x ++ y).extractLsb' m n = x := by
  apply BitVec.eq_of_getLsbD_eq
  intro i hi
  simp [BitVec.getLsbD_append, hi]

/-- The operand of a script step's word (R90). -/
@[simp] theorem uop_operand (k : BitVec 4) (a : Byte) : BitVec.extractLsb' 0 8 (k ++ a : BitVec 12) = a :=
  extract_append_low k a

/-- The kind of a script step's word (R90). -/
@[simp] theorem uop_kind (k : BitVec 4) (a : Byte) : BitVec.extractLsb' 8 4 (k ++ a : BitVec 12) = k :=
  extract_append_high k a

/-- The byte of a frame's word (R80). -/
@[simp] theorem frame_byte (sel : BitVec 1) (b : Byte) : BitVec.extractLsb' 0 8 (sel ++ b : BitVec 9) = b :=
  extract_append_low sel b

/-- `sel` of a frame's word (R80). -/
@[simp] theorem frame_sel (sel : BitVec 1) (b : Byte) : BitVec.getLsbD (sel ++ b : BitVec 9) 8 = sel.getLsbD 0 := by
  have : BitVec.getLsbD (sel ++ b : BitVec (1 + 8)) 8 = sel.getLsbD 0 := by rw [BitVec.getLsbD_append]; rfl
  exact this

/-- A 12-bit word is its kind and its operand (R90). -/
theorem uop_split (w : BitVec 12) : w = w.extractLsb' 8 4 ++ w.extractLsb' 0 8 := by
  have : ∀ w : BitVec (4 + 8), w = w.extractLsb' 8 4 ++ w.extractLsb' 0 8 := by
    intro w
    apply BitVec.eq_of_getLsbD_eq
    intro i hi
    simp only [BitVec.getLsbD_append, BitVec.getLsbD_extractLsb']
    by_cases h : i < 8
    · simp [h]
    · simp [h, show i - 8 < 4 by omega, show 8 + (i - 8) = i by omega]
  exact this w

/-- A 9-bit word is its `sel` and its byte (R80). -/
theorem frame_split (w : BitVec 9) : w = (if w.getLsbD 8 then 1#1 else 0#1) ++ w.extractLsb' 0 8 := by
  have : ∀ w : BitVec (1 + 8), w = (if w.getLsbD 8 then 1#1 else 0#1) ++ w.extractLsb' 0 8 := by
    intro w
    apply BitVec.eq_of_getLsbD_eq
    intro i hi
    simp only [BitVec.getLsbD_append, BitVec.getLsbD_extractLsb']
    by_cases h : i < 8
    · simp [h]
    · obtain rfl : i = 8 := by omega
      cases w.getLsbD 8 <;> simp
  exact this w

/-! ### Decoding from fields -/

/-- Decoding a script step's word, by its kind (R90). -/
theorem decodeUop_append (k : BitVec 4) (a : Byte) : decodeUop (k ++ a) = decodeKind a k.toNat := by
  simp only [decodeUop, uop_operand, uop_kind]

/-- Decoding a data frame (R92). -/
theorem decodeFrame_data (K : Opcodes) (b : Byte) : decodeFrame K (1#1 ++ b) = .ok (.data b) := by
  simp only [decodeFrame, frame_byte, frame_sel]; rfl

/-- Decoding a command frame (R92). -/
theorem decodeFrame_command (K : Opcodes) (b : Byte) : decodeFrame K (0#1 ++ b) = decodeCommand K b := by
  simp only [decodeFrame, frame_byte, frame_sel]; rfl

/-- The encoding of a command is the command frame of its byte. -/
theorem encode_command (K : Opcodes) (n : OpName) : encode K (.command n) = commandFrame (K.byte n) := by cases n <;> rfl

theorem OpName.mem_all (n : OpName) : n ∈ OpName.all := by cases n <;> decide

/-- With distinct bytes an opcode's byte is looked up to that opcode (R93). -/
theorem opNameOf_byte {K : Opcodes} (h : K.distinct = true) (n : OpName) : opNameOf K (K.byte n) = some n := by
  have hnd : (OpName.all.map K.byte).Nodup := by simpa [Opcodes.distinct] using h
  unfold opNameOf
  cases hf : OpName.all.find? (fun m => K.byte m == K.byte n) with
  | none => rw [List.find?_eq_none] at hf; exact absurd (hf n n.mem_all) (by simp)
  | some m =>
    have h1 : K.byte m = K.byte n := by simpa using List.find?_some hf
    rw [List.inj_on_of_nodup_map hnd (List.mem_of_find?_eq_some hf) n.mem_all h1]

/-- A byte looked up to an opcode is that opcode's byte. -/
theorem byte_of_opNameOf {K : Opcodes} {b : Byte} {n : OpName} (h : opNameOf K b = some n) : K.byte n = b := by
  simpa using List.find?_some h

end Sys2Proof
end

