-- ==== Sys2Proof/Laws/Memory.lean ====
section
/-! SUPPORT. The laws of memory: read after write, a write leaves every other address alone, every operation keeps the
canonical form; and the same for the framebuffer. -/

namespace Sys2Proof.Machine

@[simp] theorem Memory.read_nil (a : Nat) : Memory.read [] a = none := rfl

/-- A read after a write: the byte written there, the old one elsewhere. Needs no canonical form. -/
theorem Memory.read_write_ne (m : Memory) {a a' : Nat} (b : Byte) (h : a' ≠ a) :
    Memory.read (Memory.write m a b) a' = Memory.read m a' := by
  induction m with
  | nil => simp [Memory.write, Memory.read, h.symm]
  | cons c m ih =>
    obtain ⟨k, v⟩ := c
    simp only [Memory.write]
    split
    · simp [Memory.read, h.symm]
    · split
      · next hk => subst hk; simp [Memory.read, h.symm]
      · simp [Memory.read, ih]

/-- A read of the address just written. -/
@[simp] theorem Memory.read_write_same (m : Memory) (a : Nat) (b : Byte) :
    Memory.read (Memory.write m a b) a = some b := by
  induction m with
  | nil => simp [Memory.write, Memory.read]
  | cons c m ih =>
    obtain ⟨k, v⟩ := c
    simp only [Memory.write]
    split
    · simp [Memory.read]
    · split
      · simp [Memory.read]
      · next hk => simp [Memory.read, Ne.symm hk, ih]

/-- A write keeps the addresses rising. -/
theorem Memory.risesFrom_write (m : Memory) (n a : Nat) (b : Byte) (hn : n ≤ a) (h : Memory.risesFrom n m = true) :
    Memory.risesFrom n (Memory.write m a b) = true := by
  induction m generalizing n with
  | nil => simp [Memory.write, Memory.risesFrom, hn]
  | cons c m ih =>
    obtain ⟨k, v⟩ := c
    simp only [Memory.risesFrom, Bool.and_eq_true, decide_eq_true_eq] at h
    simp only [Memory.write]
    split
    · next hk => simp only [Memory.risesFrom, Bool.and_eq_true, decide_eq_true_eq]; exact ⟨hn, by omega, h.2⟩
    · split
      · next hk => subst hk; simp only [Memory.risesFrom, Bool.and_eq_true, decide_eq_true_eq]; exact ⟨hn, h.2⟩
      · simp only [Memory.risesFrom, Bool.and_eq_true, decide_eq_true_eq]
        exact ⟨h.1, ih (k + 1) (by omega) h.2⟩

/-- A write keeps the canonical form. -/
theorem Memory.wf_write (m : Memory) (a : Nat) (b : Byte) (h : Memory.wf m = true) : Memory.wf (Memory.write m a b) = true :=
  Memory.risesFrom_write m 0 a b (Nat.zero_le a) h

/-! ### Many bytes -/

theorem Memory.read_append (m m' : Memory) (i : Nat) :
    Memory.read (m ++ m') i = (Memory.read m i).orElse fun _ => Memory.read m' i := by
  induction m with
  | nil => rfl
  | cons c m ih =>
    obtain ⟨k, v⟩ := c
    simp only [List.cons_append, Memory.read]
    split
    · rfl
    · exact ih

/-- A memory cut down to some addresses reads there as before, and holds nothing elsewhere. -/
theorem Memory.read_filter (m : Memory) (p : Nat → Bool) (i : Nat) :
    Memory.read (m.filter fun c => p c.1) i = if p i = true then Memory.read m i else none := by
  induction m with
  | nil => simp
  | cons c m ih =>
    obtain ⟨k, v⟩ := c
    by_cases hk : k = i
    · subst hk
      by_cases hp : p k = true
      · simp [hp, Memory.read]
      · simp [hp, ih]
    · by_cases hp : p k = true
      · simp [hp, Memory.read, hk, ih]
      · simp [hp, Memory.read, hk, ih]

theorem Memory.read_cells (bs : List Byte) (a i : Nat) :
    Memory.read (Memory.cells a bs) i = if a ≤ i then bs[i - a]? else none := by
  induction bs generalizing a with
  | nil => simp [Memory.cells]
  | cons b bs ih =>
    simp only [Memory.cells, Memory.read, ih]
    by_cases h : a = i
    · subst h; simp
    · rw [if_neg h]
      by_cases h' : a ≤ i
      · rw [if_pos (by omega), if_pos h', show i - a = i - (a + 1) + 1 by omega, List.getElem?_cons_succ]
      · rw [if_neg (by omega), if_neg h']

/-- WHAT IS READ AFTER BYTES ARE WRITTEN: the byte written there, the old one elsewhere. Needs no canonical form. -/
theorem Memory.read_writeBytes_eq (bs : List Byte) (a : Nat) (m : Memory) (i : Nat) :
    Memory.read (Memory.writeBytes a bs m) i = if a ≤ i ∧ i < a + bs.length then bs[i - a]? else Memory.read m i := by
  rw [Memory.writeBytes, Memory.read_append, Memory.read_append, Memory.read_filter m (fun k => decide (k < a)),
    Memory.read_filter m (fun k => decide (a + bs.length ≤ k)), Memory.read_cells]
  simp only [decide_eq_true_eq]
  by_cases h1 : i < a
  · rw [if_pos h1, if_neg (show ¬a ≤ i by omega), if_neg (show ¬(a ≤ i ∧ _) by omega),
      if_neg (show ¬a + bs.length ≤ i by omega)]
    cases Memory.read m i <;> rfl
  · rw [if_neg h1, if_pos (show a ≤ i by omega)]
    by_cases h2 : i < a + bs.length
    · rw [if_neg (show ¬a + bs.length ≤ i by omega), if_pos (show a ≤ i ∧ i < a + bs.length by omega),
        List.getElem?_eq_getElem (by omega)]; rfl
    · rw [if_neg (show ¬(a ≤ i ∧ _) by omega), List.getElem?_eq_none (by omega), if_pos (by omega)]; rfl

/-- What is read where the bytes were written. -/
theorem Memory.read_writeBytes (bs : List Byte) (a : Nat) (m : Memory) (i : Nat) (h : i < bs.length) :
    Memory.read (Memory.writeBytes a bs m) (a + i) = bs[i]? := by
  rw [Memory.read_writeBytes_eq, if_pos ⟨by omega, by omega⟩, Nat.add_sub_cancel_left]

/-- What is read above the bytes written. -/
theorem Memory.read_writeBytes_above (bs : List Byte) (a : Nat) (m : Memory) (i : Nat) (h : a + bs.length ≤ i) :
    Memory.read (Memory.writeBytes a bs m) i = Memory.read m i := by
  rw [Memory.read_writeBytes_eq, if_neg (by omega)]

/-- Addresses that rise from a bound on rise from a lower one. -/
theorem Memory.risesFrom_mono (m : Memory) {n n' : Nat} (hn : n' ≤ n) (h : Memory.risesFrom n m = true) :
    Memory.risesFrom n' m = true := by
  cases m with
  | nil => rfl
  | cons c m =>
    simp only [Memory.risesFrom, Bool.and_eq_true, decide_eq_true_eq] at h ⊢
    exact ⟨by omega, h.2⟩

/-- One memory behind another: the addresses of the first below `k`, those of the second from `k` on. -/
theorem Memory.risesFrom_append (m m' : Memory) (n k : Nat) (hn : n ≤ k) (h : Memory.risesFrom n m = true)
    (hk : ∀ c, c ∈ m → c.1 < k) (h' : Memory.risesFrom k m' = true) : Memory.risesFrom n (m ++ m') = true := by
  induction m generalizing n with
  | nil => exact Memory.risesFrom_mono m' hn h'
  | cons c m ih =>
    simp only [Memory.risesFrom, Bool.and_eq_true, decide_eq_true_eq, List.cons_append] at h ⊢
    have := hk c (by simp)
    exact ⟨h.1, ih (c.1 + 1) (by omega) h.2 fun d hd => hk d (by simp [hd])⟩

theorem Memory.risesFrom_cells (bs : List Byte) (a : Nat) : Memory.risesFrom a (Memory.cells a bs) = true := by
  induction bs generalizing a with
  | nil => rfl
  | cons b bs ih => simp [Memory.cells, Memory.risesFrom, ih]

theorem Memory.mem_cells (bs : List Byte) (a : Nat) (c : Host.Cell) (h : c ∈ Memory.cells a bs) :
    a ≤ c.1 ∧ c.1 < a + bs.length ∧ c.2 ∈ bs := by
  induction bs generalizing a with
  | nil => simp [Memory.cells] at h
  | cons b bs ih =>
    rcases List.mem_cons.mp h with rfl | h'
    · simp
    · obtain ⟨h1, h2, h3⟩ := ih (a + 1) h'
      exact ⟨by omega, by simp only [List.length_cons]; omega, List.mem_cons_of_mem _ h3⟩

/-- A memory cut down to the addresses from `n` on rises from the bound it is cut at. -/
theorem Memory.risesFrom_filter (m : Memory) (p : Nat → Bool) (n k : Nat) (hp : ∀ i, p i = true → k ≤ i)
    (h : Memory.risesFrom n m = true) : Memory.risesFrom (max n k) (m.filter fun c => p c.1) = true := by
  induction m generalizing n with
  | nil => rfl
  | cons c m ih =>
    simp only [Memory.risesFrom, Bool.and_eq_true, decide_eq_true_eq] at h
    by_cases hc : p c.1 = true
    · have := hp _ hc
      rw [List.filter_cons_of_pos (by exact hc)]
      simp only [Memory.risesFrom, Bool.and_eq_true, decide_eq_true_eq]
      refine ⟨by omega, ?_⟩
      have := ih (c.1 + 1) h.2
      rwa [show max (c.1 + 1) k = c.1 + 1 by omega] at this
    · rw [List.filter_cons_of_neg (by simpa using hc)]
      exact Memory.risesFrom_mono _ (by omega) (ih (c.1 + 1) h.2)

/-- Writing bytes keeps the canonical form. -/
theorem Memory.wf_writeBytes (bs : List Byte) (a : Nat) (m : Memory) (h : Memory.wf m = true) :
    Memory.wf (Memory.writeBytes a bs m) = true := by
  have low := Memory.risesFrom_filter m (fun k => decide (k < a)) 0 0 (by simp) h
  have high := Memory.risesFrom_filter m (fun k => decide (a + bs.length ≤ k)) 0 (a + bs.length) (by simp) h
  have mid := Memory.risesFrom_append (m.filter fun c => decide (c.1 < a)) (Memory.cells a bs) 0 a (by omega) low
    (by intro c hc; simpa using (List.mem_filter.mp hc).2) (Memory.risesFrom_cells bs a)
  refine Memory.risesFrom_append _ _ 0 (a + bs.length) (by omega) mid ?_ (by simpa using high)
  intro c hc
  rcases List.mem_append.mp hc with h1 | h1
  · have : c.1 < a := by simpa using (List.mem_filter.mp h1).2
    omega
  · exact (Memory.mem_cells bs a c h1).2.1

/-- The loops of R244 and R245 keep the canonical form. -/
theorem Memory.wf_writeLoop (bs : List Byte) (a : Nat) (m : Memory) (h : Memory.wf m = true) :
    Memory.wf (Memory.writeLoop a bs m) = true := by
  induction bs generalizing a m with
  | nil => exact h
  | cons b bs ih => exact ih (a + 1) (Memory.write m a b) (Memory.wf_write m a b h)

/-- What is read after the loops of R244 and R245. -/
theorem Memory.read_writeLoop (bs : List Byte) (a : Nat) (m : Memory) (i : Nat) :
    Memory.read (Memory.writeLoop a bs m) i = if a ≤ i ∧ i < a + bs.length then bs[i - a]? else Memory.read m i := by
  induction bs generalizing a m with
  | nil => rw [if_neg (by simp)]; rfl
  | cons b bs ih =>
    rw [Memory.writeLoop, ih, List.length_cons]
    by_cases h : i = a
    · subst h; rw [if_neg (by omega), if_pos (by omega)]; simp
    · rw [Memory.read_write_ne m b h]
      by_cases h' : a ≤ i ∧ i < a + (bs.length + 1)
      · rw [if_pos h', if_pos (by omega), show i - a = i - (a + 1) + 1 by omega, List.getElem?_cons_succ]
      · rw [if_neg h', if_neg (by omega)]

/-- Nothing is read below the bound a memory rises from. -/
theorem Memory.read_below (m : Memory) (n i : Nat) (h : Memory.risesFrom n m = true) (hi : i < n) : Memory.read m i = none := by
  induction m generalizing n with
  | nil => rfl
  | cons c m ih =>
    simp only [Memory.risesFrom, Bool.and_eq_true, decide_eq_true_eq] at h
    rw [show c = (c.1, c.2) from rfl, Memory.read, if_neg (by omega), ih _ h.2 (by omega)]

/-- EQUAL MEMORIES ARE EQUAL DATA: canonical memories that read alike are the same list. -/
theorem Memory.eq_of_read (m m' : Memory) (n : Nat) (h : Memory.risesFrom n m = true) (h' : Memory.risesFrom n m' = true)
    (hr : ∀ i, Memory.read m i = Memory.read m' i) : m = m' := by
  induction m generalizing m' n with
  | nil =>
    cases m' with
    | nil => rfl
    | cons c m' => have := hr c.1; rw [show c = (c.1, c.2) from rfl] at this; simp [Memory.read] at this
  | cons c m ih =>
    obtain ⟨k, v⟩ := c
    cases m' with
    | nil => have := hr k; simp [Memory.read] at this
    | cons c' m' =>
      obtain ⟨k', v'⟩ := c'
      simp only [Memory.risesFrom, Bool.and_eq_true, decide_eq_true_eq] at h h'
      have e1 := hr k
      have e2 := hr k'
      simp only [Memory.read, if_true] at e1 e2
      have hk : k = k' := by
        by_contra hne
        rw [if_neg (Ne.symm hne)] at e1
        rw [if_neg hne] at e2
        by_cases hlt : k < k'
        · rw [Memory.read_below m' (k' + 1) k h'.2 (by omega)] at e1; simp at e1
        · rw [Memory.read_below m (k + 1) k' h.2 (by omega)] at e2; simp at e2
      subst hk
      simp only [if_true, Option.some.injEq] at e1
      subst e1
      congr 1
      refine ih m' (k + 1) h.2 h'.2 fun i => ?_
      by_cases hi : k = i
      · subst hi; rw [Memory.read_below m (k + 1) k h.2 (by omega), Memory.read_below m' (k + 1) k h'.2 (by omega)]
      · have := hr i; simpa [Memory.read, hi] using this

/-- `Memory.writeBytes` is the loops of R244 and R245. -/
theorem Memory.writeBytes_eq_writeLoop (bs : List Byte) (a : Nat) (m : Memory) (h : Memory.wf m = true) :
    Memory.writeBytes a bs m = Memory.writeLoop a bs m :=
  Memory.eq_of_read _ _ 0 (Memory.wf_writeBytes bs a m h) (Memory.wf_writeLoop bs a m h) fun i => by
    rw [Memory.read_writeBytes_eq, Memory.read_writeLoop]

/-- `Memory.readRange` is a read of each address in turn. -/
theorem Memory.readRange_eq (free : Nat → Byte) (n a : Nat) (m : Memory) :
    Memory.readRange free n a m = (List.range' a n).map fun i => (Memory.read m i).getD (free i) := by
  induction n generalizing a m with
  | zero => rfl
  | succ n ih =>
    cases m with
    | nil => simp [Memory.readRange, ih, List.range'_succ]
    | cons c m =>
      obtain ⟨k, v⟩ := c
      simp only [Memory.readRange, List.range'_succ, List.map_cons]
      split
      · next hk =>
        subst hk
        rw [ih]
        simp only [Memory.read, if_true, Option.getD_some, List.cons.injEq, true_and]
        apply List.map_congr_left
        intro i hi
        have : k ≠ i := by have := List.mem_range'.mp hi; omega
        rw [if_neg this]
      · next hk => rw [ih]; simp [Memory.read, hk]

/-- The entries after one write: old ones, or the one written. -/
theorem Memory.mem_write (m : Memory) (a : Nat) (b : Byte) (c : Host.Cell) (h : c ∈ Memory.write m a b) :
    c = (a, b) ∨ c ∈ m := by
  induction m with
  | nil => simp [Memory.write] at h; exact .inl h
  | cons d m ih =>
    obtain ⟨k, v⟩ := d
    simp only [Memory.write] at h
    split at h
    · simpa using h
    · split at h
      · simp only [List.mem_cons] at h ⊢; tauto
      · simp only [List.mem_cons] at h ⊢; tauto

/-- The entries after writing bytes: written ones at their addresses, or old ones elsewhere. -/
theorem Memory.mem_writeBytes (bs : List Byte) (a : Nat) (m : Memory) (c : Host.Cell) (h : c ∈ Memory.writeBytes a bs m) :
    (a ≤ c.1 ∧ c.1 < a + bs.length ∧ c.2 ∈ bs) ∨ (c ∈ m ∧ (c.1 < a ∨ a + bs.length ≤ c.1)) := by
  rcases List.mem_append.mp h with h' | h'
  · rcases List.mem_append.mp h' with h'' | h''
    · have := List.mem_filter.mp h''
      exact .inr ⟨this.1, .inl (by simpa using this.2)⟩
    · exact .inl (Memory.mem_cells bs a c h'')
  · have := List.mem_filter.mp h'
    exact .inr ⟨this.1, .inr (by simpa using this.2)⟩

/-- An entry of a memory in canonical form is what its address reads as. -/
theorem Memory.read_of_mem_risesFrom (m : Memory) (n : Nat) (c : Host.Cell) (hw : Memory.risesFrom n m = true) (h : c ∈ m) :
    n ≤ c.1 ∧ Memory.read m c.1 = some c.2 := by
  induction m generalizing n with
  | nil => simp at h
  | cons d m ih =>
    obtain ⟨k, v⟩ := d
    simp only [Memory.risesFrom, Bool.and_eq_true, decide_eq_true_eq] at hw
    rcases List.mem_cons.mp h with rfl | h'
    · exact ⟨hw.1, by simp [Memory.read]⟩
    · obtain ⟨h1, h2⟩ := ih (k + 1) hw.2 h'
      exact ⟨by omega, by rw [Memory.read, if_neg (by omega), h2]⟩

/-- As above, for the canonical form. -/
theorem Memory.read_of_mem (m : Memory) (c : Host.Cell) (hw : Memory.wf m = true) (h : c ∈ m) :
    Memory.read m c.1 = some c.2 := (Memory.read_of_mem_risesFrom m 0 c hw h).2

/-- Memory after creation is in canonical form. -/
theorem reset_fb_wf : Memory.wf State.reset.fb = true := rfl

/-! ### The framebuffer -/

/-- FB_LEN (R5, R207). -/
theorem fbLen_eq : fbLen = 122880 := by unfold fbLen panelWidth panelHeight; rfl

theorem State.fbBytes_eq (s : State) : s.fbBytes = (List.range fbLen).map s.fbByte := by
  rw [State.fbBytes, Memory.readRange_eq, List.range_eq_range']; rfl

@[simp] theorem State.fbBytes_length (s : State) : s.fbBytes.length = fbLen := by simp [State.fbBytes_eq]

/-- Byte `i` of what BURST sends. -/
theorem State.fbBytes_getElem? (s : State) (i : Nat) (h : i < fbLen) : s.fbBytes[i]? = some (s.fbByte i) := by
  simp [State.fbBytes_eq, h]

/-- After FB is written in full it reads as what was written. -/
theorem State.fbByte_storeFb (s : State) (bs : List Byte) (i : Nat) (b : Byte) (h : bs[i]? = some b) :
    (s.storeFb bs).fbByte i = b := by
  have hi : i < bs.length := by
    by_contra hc
    rw [List.getElem?_eq_none (by omega)] at h; simp at h
  have := Memory.read_writeBytes bs 0 s.fb i hi
  simp only [State.fbByte, State.storeFb]
  rw [show 0 + i = i by omega] at this
  rw [this, h]; rfl

/-- BURST after a full write sends what was written. -/
theorem State.fbBytes_storeFb (s : State) (bs : List Byte) (h : bs.length = fbLen) : (s.storeFb bs).fbBytes = bs := by
  apply List.ext_getElem?
  intro i
  by_cases hi : i < fbLen
  · rw [State.fbBytes_getElem? _ _ hi, State.fbByte_storeFb s bs i bs[i] (by simp)]; simp
  · rw [List.getElem?_eq_none (by simp; omega), List.getElem?_eq_none (by omega)]

/-- The bytes sent depend on FB alone. -/
theorem State.fbBytes_congr (s t : State) (h : s.fb = t.fb) : s.fbBytes = t.fbBytes := by rw [State.fbBytes, State.fbBytes, h]

end Sys2Proof.Machine
end

