-- ==== Sys2Proof/Laws/State.lean ====
section
/-! SUPPORT. One lemma per field per update of the state, so that no proof unfolds an update. -/

namespace Sys2Proof.Machine

variable (s : State)

/-! ### `log` -/

@[simp] theorem State.log_st (e : Event) : (s.log e).st = s.st := rfl
@[simp] theorem State.log_cur (e : Event) : (s.log e).cur = s.cur := rfl
@[simp] theorem State.log_upc (e : Event) : (s.log e).upc = s.upc := rfl
@[simp] theorem State.log_polls (e : Event) : (s.log e).polls = s.polls := rfl
@[simp] theorem State.log_dcLatch (e : Event) : (s.log e).dcLatch = s.dcLatch := rfl
@[simp] theorem State.log_rstLatch (e : Event) : (s.log e).rstLatch = s.rstLatch := rfl
@[simp] theorem State.log_fb (e : Event) : (s.log e).fb = s.fb := rfl
@[simp] theorem State.log_fbValid (e : Event) : (s.log e).fbValid = s.fbValid := rfl
@[simp] theorem State.log_res (e : Event) : (s.log e).res = s.res := rfl
@[simp] theorem State.log_trace (e : Event) : (s.log e).trace = s.trace ++ [e] := rfl
@[simp] theorem State.log_faults (e : Event) : (s.log e).faults = s.faults := rfl
@[simp] theorem State.log_cfg (e : Event) : (s.log e).cfg = s.cfg := rfl
@[simp] theorem State.log_rom (e : Event) : (s.log e).rom = s.rom := rfl
@[simp] theorem State.log_hostq (e : Event) : (s.log e).hostq = s.hostq := rfl
@[simp] theorem State.log_bm (e : Event) : (s.log e).bm = s.bm := rfl
@[simp] theorem State.log_answers (e : Event) : (s.log e).answers = s.answers := rfl
@[simp] theorem State.log_draws (e : Event) : (s.log e).draws = s.draws := rfl

/-! ### `consume` -/

@[simp] theorem State.consume_st : s.consume.st = s.st := rfl
@[simp] theorem State.consume_cur : s.consume.cur = s.cur := rfl
@[simp] theorem State.consume_upc : s.consume.upc = s.upc := rfl
@[simp] theorem State.consume_polls : s.consume.polls = s.polls := rfl
@[simp] theorem State.consume_dcLatch : s.consume.dcLatch = s.dcLatch := rfl
@[simp] theorem State.consume_rstLatch : s.consume.rstLatch = s.rstLatch := rfl
@[simp] theorem State.consume_fb : s.consume.fb = s.fb := rfl
@[simp] theorem State.consume_fbValid : s.consume.fbValid = s.fbValid := rfl
@[simp] theorem State.consume_res : s.consume.res = s.res := rfl
@[simp] theorem State.consume_trace : s.consume.trace = s.trace := rfl
@[simp] theorem State.consume_faults : s.consume.faults = s.faults := rfl
@[simp] theorem State.consume_cfg : s.consume.cfg = s.cfg := rfl
@[simp] theorem State.consume_rom : s.consume.rom = s.rom := rfl
@[simp] theorem State.consume_hostq : s.consume.hostq = s.hostq := rfl
@[simp] theorem State.consume_bm : s.consume.bm = s.bm := rfl
@[simp] theorem State.consume_cons (a : Answer) (as : List Answer) (h : s.answers = a :: as) :
    s.consume = { s with answers := as } := by simp [State.consume, h]

/-! ### `latch` -/

@[simp] theorem State.latch_st (p : OutPin) (l : Option Level) : (s.latch p l).st = s.st := by cases p <;> rfl
@[simp] theorem State.latch_cur (p : OutPin) (l : Option Level) : (s.latch p l).cur = s.cur := by cases p <;> rfl
@[simp] theorem State.latch_upc (p : OutPin) (l : Option Level) : (s.latch p l).upc = s.upc := by cases p <;> rfl
@[simp] theorem State.latch_polls (p : OutPin) (l : Option Level) : (s.latch p l).polls = s.polls := by cases p <;> rfl
@[simp] theorem State.latch_fb (p : OutPin) (l : Option Level) : (s.latch p l).fb = s.fb := by cases p <;> rfl
@[simp] theorem State.latch_fbValid (p : OutPin) (l : Option Level) : (s.latch p l).fbValid = s.fbValid := by cases p <;> rfl
@[simp] theorem State.latch_res (p : OutPin) (l : Option Level) : (s.latch p l).res = s.res := by cases p <;> rfl
@[simp] theorem State.latch_trace (p : OutPin) (l : Option Level) : (s.latch p l).trace = s.trace := by cases p <;> rfl
@[simp] theorem State.latch_faults (p : OutPin) (l : Option Level) : (s.latch p l).faults = s.faults := by cases p <;> rfl
@[simp] theorem State.latch_cfg (p : OutPin) (l : Option Level) : (s.latch p l).cfg = s.cfg := by cases p <;> rfl
@[simp] theorem State.latch_rom (p : OutPin) (l : Option Level) : (s.latch p l).rom = s.rom := by cases p <;> rfl
@[simp] theorem State.latch_hostq (p : OutPin) (l : Option Level) : (s.latch p l).hostq = s.hostq := by cases p <;> rfl
@[simp] theorem State.latch_bm (p : OutPin) (l : Option Level) : (s.latch p l).bm = s.bm := by cases p <;> rfl
@[simp] theorem State.latch_answers (p : OutPin) (l : Option Level) : (s.latch p l).answers = s.answers := by cases p <;> rfl
@[simp] theorem State.latch_draws (p : OutPin) (l : Option Level) : (s.latch p l).draws = s.draws := by cases p <;> rfl
@[simp] theorem State.latch_dc_dcLatch (l : Option Level) : (s.latch .dc l).dcLatch = l := rfl
@[simp] theorem State.latch_dc_rstLatch (l : Option Level) : (s.latch .dc l).rstLatch = s.rstLatch := rfl
@[simp] theorem State.latch_rst_rstLatch (l : Option Level) : (s.latch .rst l).rstLatch = l := rfl
@[simp] theorem State.latch_rst_dcLatch (l : Option Level) : (s.latch .rst l).dcLatch = s.dcLatch := rfl

/-! ### `storeFb` -/

@[simp] theorem State.storeFb_st (bs : List Byte) : (s.storeFb bs).st = s.st := rfl
@[simp] theorem State.storeFb_cur (bs : List Byte) : (s.storeFb bs).cur = s.cur := rfl
@[simp] theorem State.storeFb_upc (bs : List Byte) : (s.storeFb bs).upc = s.upc := rfl
@[simp] theorem State.storeFb_polls (bs : List Byte) : (s.storeFb bs).polls = s.polls := rfl
@[simp] theorem State.storeFb_dcLatch (bs : List Byte) : (s.storeFb bs).dcLatch = s.dcLatch := rfl
@[simp] theorem State.storeFb_rstLatch (bs : List Byte) : (s.storeFb bs).rstLatch = s.rstLatch := rfl
@[simp] theorem State.storeFb_fb (bs : List Byte) : (s.storeFb bs).fb = Memory.writeBytes 0 bs s.fb := rfl
@[simp] theorem State.storeFb_fbValid (bs : List Byte) : (s.storeFb bs).fbValid = true := rfl
@[simp] theorem State.storeFb_res (bs : List Byte) : (s.storeFb bs).res = s.res := rfl
@[simp] theorem State.storeFb_trace (bs : List Byte) : (s.storeFb bs).trace = s.trace := rfl
@[simp] theorem State.storeFb_faults (bs : List Byte) : (s.storeFb bs).faults = s.faults := rfl
@[simp] theorem State.storeFb_cfg (bs : List Byte) : (s.storeFb bs).cfg = s.cfg := rfl
@[simp] theorem State.storeFb_rom (bs : List Byte) : (s.storeFb bs).rom = s.rom := rfl
@[simp] theorem State.storeFb_hostq (bs : List Byte) : (s.storeFb bs).hostq = s.hostq := rfl
@[simp] theorem State.storeFb_bm (bs : List Byte) : (s.storeFb bs).bm = s.bm := rfl
@[simp] theorem State.storeFb_answers (bs : List Byte) : (s.storeFb bs).answers = s.answers := rfl
@[simp] theorem State.storeFb_draws (bs : List Byte) : (s.storeFb bs).draws = s.draws := rfl

/-! ### `raiseExc` (R280) -/

@[simp] theorem raiseExc_st (op : HostOp) (e : Exc) : (raiseExc op e s).st = if e.resetsState then .uninitialized else s.st := rfl
@[simp] theorem raiseExc_cur (op : HostOp) (e : Exc) : (raiseExc op e s).cur = none := rfl
@[simp] theorem raiseExc_upc (op : HostOp) (e : Exc) : (raiseExc op e s).upc = 0 := rfl
@[simp] theorem raiseExc_polls (op : HostOp) (e : Exc) : (raiseExc op e s).polls = 0 := rfl
@[simp] theorem raiseExc_dcLatch (op : HostOp) (e : Exc) : (raiseExc op e s).dcLatch = s.dcLatch := rfl
@[simp] theorem raiseExc_rstLatch (op : HostOp) (e : Exc) : (raiseExc op e s).rstLatch = s.rstLatch := rfl
@[simp] theorem raiseExc_fb (op : HostOp) (e : Exc) : (raiseExc op e s).fb = s.fb := rfl
@[simp] theorem raiseExc_fbValid (op : HostOp) (e : Exc) : (raiseExc op e s).fbValid = s.fbValid := rfl
@[simp] theorem raiseExc_res (op : HostOp) (e : Exc) : (raiseExc op e s).res = .exc e := rfl
@[simp] theorem raiseExc_trace (op : HostOp) (e : Exc) : (raiseExc op e s).trace = s.trace := rfl
@[simp] theorem raiseExc_faults (op : HostOp) (e : Exc) : (raiseExc op e s).faults = s.faults ++ [{ op := op, exc := e }] := rfl
@[simp] theorem raiseExc_cfg (op : HostOp) (e : Exc) : (raiseExc op e s).cfg = s.cfg := rfl
@[simp] theorem raiseExc_rom (op : HostOp) (e : Exc) : (raiseExc op e s).rom = s.rom := rfl
@[simp] theorem raiseExc_hostq (op : HostOp) (e : Exc) : (raiseExc op e s).hostq = s.hostq := rfl
@[simp] theorem raiseExc_bm (op : HostOp) (e : Exc) : (raiseExc op e s).bm = s.bm := rfl
@[simp] theorem raiseExc_answers (op : HostOp) (e : Exc) : (raiseExc op e s).answers = s.answers := rfl
@[simp] theorem raiseExc_draws (op : HostOp) (e : Exc) : (raiseExc op e s).draws = s.draws := rfl

/-! ### `consumeMany` and `answerAt` -/

@[simp] theorem State.consumeMany_st (k : Nat) : (s.consumeMany k).st = s.st := by
  induction k generalizing s with
  | zero => rfl
  | succ k ih => simp [State.consumeMany, ih]
@[simp] theorem State.consumeMany_cur (k : Nat) : (s.consumeMany k).cur = s.cur := by
  induction k generalizing s with
  | zero => rfl
  | succ k ih => simp [State.consumeMany, ih]
@[simp] theorem State.consumeMany_upc (k : Nat) : (s.consumeMany k).upc = s.upc := by
  induction k generalizing s with
  | zero => rfl
  | succ k ih => simp [State.consumeMany, ih]
@[simp] theorem State.consumeMany_polls (k : Nat) : (s.consumeMany k).polls = s.polls := by
  induction k generalizing s with
  | zero => rfl
  | succ k ih => simp [State.consumeMany, ih]
@[simp] theorem State.consumeMany_dcLatch (k : Nat) : (s.consumeMany k).dcLatch = s.dcLatch := by
  induction k generalizing s with
  | zero => rfl
  | succ k ih => simp [State.consumeMany, ih]
@[simp] theorem State.consumeMany_rstLatch (k : Nat) : (s.consumeMany k).rstLatch = s.rstLatch := by
  induction k generalizing s with
  | zero => rfl
  | succ k ih => simp [State.consumeMany, ih]
@[simp] theorem State.consumeMany_fb (k : Nat) : (s.consumeMany k).fb = s.fb := by
  induction k generalizing s with
  | zero => rfl
  | succ k ih => simp [State.consumeMany, ih]
@[simp] theorem State.consumeMany_fbValid (k : Nat) : (s.consumeMany k).fbValid = s.fbValid := by
  induction k generalizing s with
  | zero => rfl
  | succ k ih => simp [State.consumeMany, ih]
@[simp] theorem State.consumeMany_res (k : Nat) : (s.consumeMany k).res = s.res := by
  induction k generalizing s with
  | zero => rfl
  | succ k ih => simp [State.consumeMany, ih]
@[simp] theorem State.consumeMany_trace (k : Nat) : (s.consumeMany k).trace = s.trace := by
  induction k generalizing s with
  | zero => rfl
  | succ k ih => simp [State.consumeMany, ih]
@[simp] theorem State.consumeMany_faults (k : Nat) : (s.consumeMany k).faults = s.faults := by
  induction k generalizing s with
  | zero => rfl
  | succ k ih => simp [State.consumeMany, ih]
@[simp] theorem State.consumeMany_cfg (k : Nat) : (s.consumeMany k).cfg = s.cfg := by
  induction k generalizing s with
  | zero => rfl
  | succ k ih => simp [State.consumeMany, ih]
@[simp] theorem State.consumeMany_rom (k : Nat) : (s.consumeMany k).rom = s.rom := by
  induction k generalizing s with
  | zero => rfl
  | succ k ih => simp [State.consumeMany, ih]
@[simp] theorem State.consumeMany_hostq (k : Nat) : (s.consumeMany k).hostq = s.hostq := by
  induction k generalizing s with
  | zero => rfl
  | succ k ih => simp [State.consumeMany, ih]
@[simp] theorem State.consumeMany_bm (k : Nat) : (s.consumeMany k).bm = s.bm := by
  induction k generalizing s with
  | zero => rfl
  | succ k ih => simp [State.consumeMany, ih]

@[simp] theorem State.consumeMany_zero : s.consumeMany 0 = s := rfl
@[simp] theorem State.consumeMany_one : s.consumeMany 1 = s.consume := rfl
@[simp] theorem State.answerAt_zero : s.answerAt 0 = s.answer := rfl

/-- Using up `j` and then `k` answers is using up `j + k`. -/
theorem State.consumeMany_add (j k : Nat) : (s.consumeMany j).consumeMany k = s.consumeMany (j + k) := by
  induction j generalizing s with
  | zero => simp
  | succ j ih => rw [Nat.succ_add]; exact ih s.consume

/-- The answer after `j` used up, then `k` more. -/
theorem State.consumeMany_answerAt (j k : Nat) : (s.consumeMany j).answerAt k = s.answerAt (j + k) := by
  induction j generalizing s with
  | zero => simp
  | succ j ih => rw [Nat.succ_add]; exact ih s.consume

/-- The next answer and what is used up do not depend on the other fields. -/
theorem State.answer_congr (s t : State) (ha : s.answers = t.answers) (hd : s.draws = t.draws) : s.answer = t.answer := by
  unfold State.answer; rw [ha, hd]

/-- As `answer_congr`, for every later answer. -/
theorem State.answerAt_congr (k : Nat) (s t : State) (ha : s.answers = t.answers) (hd : s.draws = t.draws) :
    s.answerAt k = t.answerAt k := by
  induction k generalizing s t with
  | zero => exact State.answer_congr s t ha hd
  | succ k ih =>
    apply ih <;> simp [State.consume, ha, hd]

end Sys2Proof.Machine
end

