-- ==== Sys2Proof/Laws/Ops.lean ====
section
/-! SUPPORT. One spec lemma per shared operation, and the inversion of `exec`: everything an instruction can do when it
answers a next state, said once (`exec_ran`). Proofs cite these instead of unfolding the meanings. -/

namespace Sys2Proof.Machine

/-! ### Levels -/

@[simp] theorem Level.other_ne (l : Level) : l.other ≠ l := by cases l <;> decide
@[simp] theorem Level.ne_other (l : Level) : l ≠ l.other := by cases l <;> decide

/-- There are two levels. -/
theorem Level.eq_other_of_ne {l m : Level} (h : l ≠ m) : l = m.other := by
  cases l <;> cases m <;> first | rfl | exact absurd rfl h

@[simp] theorem Config.dataLevel_ne_cmdLevel (c : Config) : c.dataLevel ≠ c.cmdLevel := Level.other_ne _

/-- A level that is not idle is busy (R14). -/
theorem Config.busyLevel_of_ne {c : Config} {l : Level} (h : l ≠ c.idleLevel) : l = c.busyLevel := Level.eq_other_of_ne h

/-! ### `runStep`, `issue`, `settle` -/

@[simp] theorem settle_done (s : State) : settle (.done s) = { s with upc := s.upc + 1 } := rfl
@[simp] theorem settle_again (s : State) : settle (.again s) = s := rfl
@[simp] theorem settle_over (s : State) : settle (.over s) = s := rfl
@[simp] theorem andThen_done (s : State) (f : State → StepEnd) : (StepEnd.done s).andThen f = f s := rfl
@[simp] theorem andThen_over (s : State) (f : State → StepEnd) : (StepEnd.over s).andThen f = .over s := rfl

theorem runStep_some {s : State} {op : HostOp} (h : s.cur = some op) (f : HostOp → State → StepEnd) :
    runStep f s = .next (settle (f op s)) := by simp [runStep, h]

theorem runStep_none {s : State} (h : s.cur = none) (f : HostOp → State → StepEnd) :
    runStep f s = .refused .blockIdle := by simp [runStep, h]

/-- `runStep` answers a next state exactly while an operation is in progress. -/
theorem runStep_next {f : HostOp → State → StepEnd} {s t : State} (h : runStep f s = .next t) :
    ∃ op, s.cur = some op ∧ t = settle (f op s) := by
  cases hc : s.cur with
  | none => simp [runStep, hc] at h
  | some op => rw [runStep_some hc] at h; exact ⟨op, rfl, by injection h with h; exact h.symm⟩

/-- `runStep` depends only on what its step does in this state. -/
theorem runStep_congr {f g : HostOp → State → StepEnd} {s : State} (h : ∀ op, f op s = g op s) :
    runStep f s = runStep g s := by
  cases hc : s.cur with
  | none => rw [runStep_none hc, runStep_none hc]
  | some op => rw [runStep_some hc, runStep_some hc, h op]

/-- An operation is accepted where R237 says so (R232). -/
theorem issue_accepted {s : State} {op : HostOp} (hc : s.cur = none) (h : mayStart op s.st = true) :
    issue op s = .next { s with cur := some op, upc := 0, polls := 0 } := by simp [issue, hc, h]

/-- Elsewhere it is rejected with WrongState (R232). -/
theorem issue_rejected {s : State} {op : HostOp} (hc : s.cur = none) (h : mayStart op s.st = false) :
    issue op s = .next (raiseExc op (.wrongState op s.st) s) := by simp [issue, hc, h]

/-- Everything an acceptance can do. -/
theorem issue_next {s t : State} {op : HostOp} (h : issue op s = .next t) :
    s.cur = none ∧ ((mayStart op s.st = true ∧ t = { s with cur := some op, upc := 0, polls := 0 }) ∨
      (mayStart op s.st = false ∧ t = raiseExc op (.wrongState op s.st) s)) := by
  cases hc : s.cur with
  | some o => simp [issue, hc] at h
  | none =>
    refine ⟨rfl, ?_⟩
    cases hm : mayStart op s.st with
    | true => rw [issue_accepted hc hm] at h; injection h with h; exact .inl ⟨rfl, h.symm⟩
    | false => rw [issue_rejected hc hm] at h; injection h with h; exact .inr ⟨rfl, h.symm⟩

/-! ### Transport actions -/

theorem setPin_ok {s : State} (op : HostOp) (p : OutPin) (l : Level) (h : s.answer.ok = true) :
    setPin op p l s = .done ((s.consume.log (.setPin p l true)).latch p (some l)) := by simp [setPin, h]

theorem setPin_fail {s : State} (op : HostOp) (p : OutPin) (l : Level) (h : s.answer.ok = false) :
    setPin op p l s = transportFail op (.setPin p l) ((s.consume.log (.setPin p l false)).latch p none) := by
  simp [setPin, h]

theorem txByte_ok {s : State} (op : HostOp) (b : Byte) (h : s.answer.ok = true) :
    txByte op b s = .done (s.consume.log (.txByte b true)) := by simp [txByte, h]

theorem txByte_fail {s : State} (op : HostOp) (b : Byte) (h : s.answer.ok = false) :
    txByte op b s = transportFail op (.txByte b) (s.consume.log (.txByte b false)) := by simp [txByte, h]

theorem txBurst_ok {s : State} (op : HostOp) (bs : List Byte) (h : s.answer.ok = true) :
    txBurst op bs s = .done (s.consume.log (.txBurst bs none)) := by simp [txBurst, h]

theorem txBurst_fail {s : State} (op : HostOp) (bs : List Byte) (h : s.answer.ok = false) :
    txBurst op bs s = transportFail op (.txBurst bs)
      (s.consume.log (.txBurst bs (some (deliveredPrefix s.answer.sent bs.length)))) := by simp [txBurst, h]

/-- A failed burst delivered a proper prefix (R273). -/
theorem deliveredPrefix_lt (sent n : Nat) : deliveredPrefix sent n < max 1 n := Nat.mod_lt _ (by omega)

@[simp] theorem State.answer_log (s : State) (e : Event) : (s.log e).answer = s.answer := rfl
@[simp] theorem State.consume_log (s : State) (e : Event) : (s.log e).consume = s.consume.log e := rfl
@[simp] theorem State.answer_latch (s : State) (p : OutPin) (l : Option Level) : (s.latch p l).answer = s.answer := by
  cases p <;> rfl
@[simp] theorem State.consume_latch (s : State) (p : OutPin) (l : Option Level) :
    (s.latch p l).consume = s.consume.latch p l := by
  cases p <;> rfl

/-! ### Everything an instruction can do -/

/-- The level and the byte of an instruction that sends one byte: CMD, DAT and the frames. -/
def sendsByte (c : Config) (i : Instr) : Option (Level × Byte) :=
  match i with
  | .cmd a => some (c.cmdLevel, a)
  | .dat a => some (c.dataLevel, a)
  | .data b => some (c.dataLevel, b)
  | .hostInitialize | .hostRender | .hostClear | .hostSleep | .endOp | .burst | .wait | .dly _ | .pin _ _ | .pack
  | .fill _ | .setst _ => none
  | i => (OpName.all.find? fun n => Instr.command n == i).map fun n => (c.cmdLevel, c.ops.byte n)

@[simp] theorem sendsByte_command (c : Config) (n : OpName) :
    sendsByte c (.command n) = some (c.cmdLevel, c.ops.byte n) := by cases n <;> rfl

/-- The instructions that send one byte: at the command level CMD and the command frames, at the data level DAT and the data
frame. -/
theorem sendsByte_some {c : Config} {i : Instr} {l : Level} {b : Byte} (h : sendsByte c i = some (l, b)) :
    (l = c.cmdLevel ∧ (i = .cmd b ∨ ∃ n, i = .command n ∧ b = c.ops.byte n)) ∨
    (l = c.dataLevel ∧ (i = .dat b ∨ i = .data b)) := by
  cases i
  case cmd a => simp [sendsByte] at h; exact .inl ⟨h.1.symm, .inl (by rw [h.2])⟩
  case dat a => simp [sendsByte] at h; exact .inr ⟨h.1.symm, .inl (by rw [h.2])⟩
  case data a => simp [sendsByte] at h; exact .inr ⟨h.1.symm, .inr (by rw [h.2])⟩
  case hostInitialize | hostRender | hostClear | hostSleep | endOp | burst | wait | dly | pin | pack | fill | setst =>
    simp [sendsByte] at h
  all_goals
    simp only [sendsByte, Option.map_eq_some_iff, Prod.mk.injEq] at h
    obtain ⟨n, hn, rfl, rfl⟩ := h
    have hc := List.find?_some hn
    simp only [beq_iff_eq] at hc
    exact .inl ⟨rfl, .inr ⟨n, hc.symm, rfl⟩⟩

theorem exec_command (n : OpName) (s : State) : exec (.command n) s = sendOpcode n s := by cases n <;> rfl
theorem exec_ofHostOp (op : HostOp) (s : State) : exec (.ofHostOp op) s = issue op s := by cases op <;> rfl

/-- Send one byte at a DC level: what CMD, DAT and the frames share. -/
def sendByteAt (op : HostOp) (l : Level) (b : Byte) (s : State) : StepEnd := (setPin op .dc l s).andThen (txByte op b)

/-- The step an instruction runs, of the operation `op` in state `s`; `none` for the host operations. -/
def effect (op : HostOp) (s : State) (i : Instr) : Option StepEnd :=
  match i with
  | .hostInitialize | .hostRender | .hostClear | .hostSleep => none
  | .endOp => some (finish s)
  | .burst => some (sendDataBurst op s.fbBytes s)
  | .wait => some (pollBusy op s)
  | .dly a => some (delay a.toNat s)
  | .pin p l => some (setPin op p l s)
  | .pack => some (packStep op s)
  | .fill a => some (fillStep a s)
  | .setst c => some (.done { s with st := c })
  | i => (sendsByte s.cfg i).map fun x => sendByteAt op x.1 x.2 s

/-- An instruction is a host operation or runs its step. -/
theorem exec_eq (i : Instr) (s : State) :
    (∃ op, i = .ofHostOp op ∧ exec i s = issue op s) ∨
    (∃ r : HostOp → StepEnd, (∀ op, effect op s i = some (r op)) ∧
      exec i s = runStep (fun op _ => r op) s) := by
  cases i
  case hostInitialize => exact .inl ⟨.init, rfl, rfl⟩
  case hostRender => exact .inl ⟨.render, rfl, rfl⟩
  case hostClear => exact .inl ⟨.clear, rfl, rfl⟩
  case hostSleep => exact .inl ⟨.sleep, rfl, rfl⟩
  case setst c => exact .inr ⟨fun _ => .done { s with st := c }, fun _ => rfl,
    runStep_congr (f := fun _ t => .done { t with st := c }) fun _ => rfl⟩
  all_goals exact .inr ⟨_, fun _ => rfl, runStep_congr fun _ => rfl⟩

/-- The outcomes of one script step or frame `i` of the operation `op`. -/
inductive Ran (op : HostOp) (s : State) : Instr → State → Prop where
  | sent (i : Instr) (l : Level) (b : Byte) (hi : sendsByte s.cfg i = some (l, b)) (h1 : s.answer.ok = true)
      (h2 : s.consume.answer.ok = true) :
      Ran op s i { s.consume.consume with
        dcLatch := some l, trace := s.trace ++ [.setPin .dc l true, .txByte b true], upc := s.upc + 1 }
  | byteLost (i : Instr) (l : Level) (b : Byte) (hi : sendsByte s.cfg i = some (l, b)) (h1 : s.answer.ok = true)
      (h2 : s.consume.answer.ok = false) :
      Ran op s i (raiseExc op (.transportFailure op s.upc (.txByte b)) { s.consume.consume with
        dcLatch := some l, trace := s.trace ++ [.setPin .dc l true, .txByte b false] })
  | selectLost (i : Instr) (l : Level) (b : Byte) (hi : sendsByte s.cfg i = some (l, b)) (h1 : s.answer.ok = false) :
      Ran op s i (raiseExc op (.transportFailure op s.upc (.setPin .dc l)) { s.consume with
        dcLatch := none, trace := s.trace ++ [.setPin .dc l false] })
  | burstSent (h1 : s.answer.ok = true) (h2 : s.consume.answer.ok = true) :
      Ran op s .burst { s.consume.consume with
        dcLatch := some s.cfg.dataLevel
        trace := s.trace ++ [.setPin .dc s.cfg.dataLevel true, .txBurst s.fbBytes none]
        upc := s.upc + 1 }
  | burstLost (k : Nat) (hk : k < fbLen) (h1 : s.answer.ok = true) (h2 : s.consume.answer.ok = false) :
      Ran op s .burst (raiseExc op (.transportFailure op s.upc (.txBurst s.fbBytes)) { s.consume.consume with
        dcLatch := some s.cfg.dataLevel
        trace := s.trace ++ [.setPin .dc s.cfg.dataLevel true, .txBurst s.fbBytes (some k)] })
  | burstSelectLost (h1 : s.answer.ok = false) :
      Ran op s .burst (raiseExc op (.transportFailure op s.upc (.setPin .dc s.cfg.dataLevel)) { s.consume with
        dcLatch := none, trace := s.trace ++ [.setPin .dc s.cfg.dataLevel false] })
  | driven (p : OutPin) (l : Level) (h1 : s.answer.ok = true) :
      Ran op s (.pin p l) { (s.consume.log (.setPin p l true)).latch p (some l) with upc := s.upc + 1 }
  | pinLost (p : OutPin) (l : Level) (h1 : s.answer.ok = false) :
      Ran op s (.pin p l) (raiseExc op (.transportFailure op s.upc (.setPin p l))
        ((s.consume.log (.setPin p l false)).latch p none))
  | delayed (a : Byte) : Ran op s (.dly a) { s with trace := s.trace ++ [.delay a.toNat], upc := s.upc + 1 }
  | packed (out : List Byte) (h : packBitmap s.bm = some out) :
      Ran op s .pack { s with fb := Memory.writeBytes 0 out s.fb, fbValid := true, upc := s.upc + 1 }
  | rejected (h : packBitmap s.bm = none) :
      Ran op s .pack (raiseExc op (.wrongDimensions s.bm.width s.bm.height) s)
  | filled (v : Byte) : Ran op s (.fill v) { s with
      fb := Memory.writeBytes 0 (List.replicate fbLen v) s.fb, fbValid := true, upc := s.upc + 1 }
  | stateSet (c : CtrlState) : Ran op s (.setst c) { s with st := c, upc := s.upc + 1 }
  | ended : Ran op s .endOp { s with res := .ok, cur := none, upc := 0 }
  | idle (h1 : s.answer.ok = true) (h2 : s.answer.level = s.cfg.idleLevel) :
      Ran op s .wait { s.consume with
        polls := 0, trace := s.trace ++ [.readPin (some s.cfg.idleLevel)], upc := s.upc + 1 }
  | busy (h1 : s.answer.ok = true) (h2 : s.answer.level ≠ s.cfg.idleLevel)
      (h3 : pollLimit s.cfg.maxPolls (s.polls + 1) = false) :
      Ran op s .wait { s.consume with
        polls := s.polls + 1, trace := s.trace ++ [.readPin (some s.cfg.busyLevel), .delay 100] }
  | timedOut (h1 : s.answer.ok = true) (h2 : s.answer.level ≠ s.cfg.idleLevel)
      (h3 : pollLimit s.cfg.maxPolls (s.polls + 1) = true) :
      Ran op s .wait (raiseExc op (.timeout op s.upc (s.polls + 1)) { s.consume with
        trace := s.trace ++ [.readPin (some s.cfg.busyLevel)], polls := s.polls + 1 })
  | readLost (h1 : s.answer.ok = false) :
      Ran op s .wait (raiseExc op (.transportFailure op s.upc .readPin) { s.consume with
        trace := s.trace ++ [.readPin none] })

theorem ran_sendByteAt (op : HostOp) (s : State) (i : Instr) (l : Level) (b : Byte)
    (hi : sendsByte s.cfg i = some (l, b)) : Ran op s i (settle (sendByteAt op l b s)) := by
  cases h1 : s.answer.ok with
  | false =>
    rw [sendByteAt, setPin_fail op .dc l h1]
    simpa [transportFail, State.log, State.latch, State.consume, State.answer] using Ran.selectLost (op := op) i l b hi h1
  | true =>
    rw [sendByteAt, setPin_ok op .dc l h1, andThen_done]
    cases h2 : s.consume.answer.ok with
    | false =>
      rw [txByte_fail op b (by simpa using h2)]
      simpa [transportFail, State.log, State.latch, State.consume, State.answer] using Ran.byteLost (op := op) i l b hi h1 h2
    | true =>
      rw [txByte_ok op b (by simpa using h2)]
      simpa [State.log, State.latch, State.consume, State.answer] using Ran.sent (op := op) i l b hi h1 h2

theorem ran_burst (op : HostOp) (s : State) : Ran op s .burst (settle (sendDataBurst op s.fbBytes s)) := by
  cases h1 : s.answer.ok with
  | false =>
    rw [sendDataBurst, setPin_fail op .dc _ h1]
    simpa [transportFail, State.log, State.latch, State.consume, State.answer] using Ran.burstSelectLost (op := op) h1
  | true =>
    rw [sendDataBurst, setPin_ok op .dc _ h1, andThen_done]
    cases h2 : s.consume.answer.ok with
    | false =>
      rw [txBurst_fail op _ (by simpa using h2)]
      have hk : deliveredPrefix s.consume.answer.sent fbLen < fbLen := by
        have := deliveredPrefix_lt s.consume.answer.sent fbLen
        rw [fbLen_eq] at *; omega
      simpa [transportFail, State.log, State.latch, State.consume, State.answer] using
        Ran.burstLost (op := op) _ hk h1 h2
    | true =>
      rw [txBurst_ok op _ (by simpa using h2)]
      simpa [State.log, State.latch, State.consume, State.answer] using Ran.burstSent (op := op) h1 h2

theorem ran_wait (op : HostOp) (s : State) : Ran op s .wait (settle (pollBusy op s)) := by
  cases h1 : s.answer.ok with
  | false => simpa [pollBusy, h1, transportFail, State.log] using Ran.readLost (op := op) h1
  | true =>
    by_cases h2 : s.answer.level = s.cfg.idleLevel
    · simpa [pollBusy, h1, h2, State.log] using Ran.idle (op := op) h1 h2
    · have hb := Config.busyLevel_of_ne h2
      cases h3 : pollLimit s.cfg.maxPolls (s.polls + 1) with
      | false =>
        have hn : s.cfg.busyLevel ≠ s.cfg.idleLevel := hb ▸ h2
        simpa [pollBusy, busyRead, h1, hb, hn, h3, State.log, pollIntervalMs] using Ran.busy (op := op) h1 h2 h3
      | true =>
        have hn : s.cfg.busyLevel ≠ s.cfg.idleLevel := hb ▸ h2
        simpa [pollBusy, busyRead, h1, hb, hn, h3, State.log] using Ran.timedOut (op := op) h1 h2 h3

/-- Every step of an instruction is one of the outcomes `Ran` lists. -/
theorem ran_effect (op : HostOp) (s : State) (i : Instr) (r : StepEnd) (h : effect op s i = some r) :
    Ran op s i (settle r) := by
  have byte : ∀ x, (sendsByte s.cfg i).map (fun x => sendByteAt op x.1 x.2 s) = some x → Ran op s i (settle x) := by
    intro x hx
    cases hs : sendsByte s.cfg i with
    | none => simp [hs] at hx
    | some p =>
      obtain ⟨l, b⟩ := p
      simp only [hs, Option.map_some, Option.some.injEq] at hx
      exact hx ▸ ran_sendByteAt op s i l b hs
  cases i
  case hostInitialize | hostRender | hostClear | hostSleep => simp [effect] at h
  case endOp => cases h; exact .ended
  case burst => cases h; exact ran_burst op s
  case wait => cases h; exact ran_wait op s
  case dly a => cases h; exact .delayed a
  case pin p l =>
    cases h
    cases h1 : s.answer.ok with
    | true =>
      rw [setPin_ok op p l h1]
      have := Ran.driven (op := op) p l h1
      simpa using this
    | false =>
      rw [setPin_fail op p l h1]
      have := Ran.pinLost (op := op) p l h1
      simpa [transportFail] using this
  case pack =>
    cases h
    cases hp : packBitmap s.bm with
    | none => simpa [packStep, hp] using Ran.rejected (op := op) hp
    | some out => simpa [packStep, hp, State.storeFb] using Ran.packed (op := op) out hp
  case fill v =>
    simp only [effect, Option.some.injEq] at h
    rw [← h, fillStep, settle_done, State.storeFb]
    exact .filled v
  case setst c => cases h; exact .stateSet c
  all_goals exact byte r h

/-- THE INVERSION OF `exec`: a next state is an acceptance or rejection of an operation (R232), or an outcome of a step. -/
theorem exec_ran {i : Instr} {s t : State} (h : exec i s = .next t) :
    (∃ op, i = .ofHostOp op ∧ s.cur = none ∧
      ((mayStart op s.st = true ∧ t = { s with cur := some op, upc := 0, polls := 0 }) ∨
       (mayStart op s.st = false ∧ t = raiseExc op (.wrongState op s.st) s))) ∨
    (∃ op, s.cur = some op ∧ Ran op s i t) := by
  rcases exec_eq i s with ⟨op, rfl, he⟩ | ⟨r, hr, he⟩
  · exact .inl ⟨op, rfl, issue_next (he ▸ h)⟩
  · obtain ⟨op, hc, rfl⟩ := runStep_next (he ▸ h)
    exact .inr ⟨op, hc, ran_effect op s i (r op) (hr op)⟩

/-- While an operation is in progress every step and frame answers a next state, one of the outcomes of `Ran`. -/
theorem exec_completes {i : Instr} {s : State} {op : HostOp} (hc : s.cur = some op) (hi : ∀ o, i ≠ .ofHostOp o) :
    ∃ t, exec i s = .next t ∧ Ran op s i t := by
  rcases exec_eq i s with ⟨o, rfl, _⟩ | ⟨r, hr, he⟩
  · exact absurd rfl (hi o)
  · exact ⟨_, by rw [he, runStep_some hc], ran_effect op s i (r op) (hr op)⟩

end Sys2Proof.Machine
end

