-- ==== Sys2Proof/Laws/FrameTrace.lean ====
section
/-! SUPPORT. The frame trace of a longer trace: walking on from where the shorter one ends, with its selection (spec R36); and
what the framer's actions add, whatever the selection was before. -/

namespace Sys2Proof.Machine

/-- The selection a trace leaves (R36). -/
def selOf (c : Config) (sel : Option Bool) (tr : List Event) : Option Bool := tr.foldl (selAfter c) sel

@[simp] theorem selAfter_cmd (c : Config) (sel : Option Bool) : selAfter c sel (.setPin .dc c.cmdLevel true) = some false := by
  simp [selAfter]

@[simp] theorem selAfter_data (c : Config) (sel : Option Bool) : selAfter c sel (.setPin .dc c.dataLevel true) = some true := by
  simp [selAfter]

@[simp] theorem selAfter_failed (c : Config) (sel : Option Bool) (l : Level) : selAfter c sel (.setPin .dc l false) = none := rfl

@[simp] theorem selAfter_rst (c : Config) (sel : Option Bool) (l : Level) (ok : Bool) :
    selAfter c sel (.setPin .rst l ok) = sel := by cases ok <;> rfl

@[simp] theorem selAfter_readPin (c : Config) (sel : Option Bool) (r : Option Level) : selAfter c sel (.readPin r) = sel := rfl
@[simp] theorem selAfter_delay (c : Config) (sel : Option Bool) (ms : Nat) : selAfter c sel (.delay ms) = sel := rfl
@[simp] theorem selAfter_txByte (c : Config) (sel : Option Bool) (b : Byte) (ok : Bool) : selAfter c sel (.txByte b ok) = sel := rfl
@[simp] theorem selAfter_txBurst (c : Config) (sel : Option Bool) (bs : List Byte) (k : Option Nat) :
    selAfter c sel (.txBurst bs k) = sel := rfl

/-- The frames of a trace walked in two parts. -/
theorem framesFrom_append (c : Config) (got : Nat → Bool) (n : Nat) (sel : Option Bool) (tr es : List Event) :
    framesFrom c got n sel (tr ++ es) =
      framesFrom c got n sel tr ++ framesFrom c got (n + tr.length) (selOf c sel tr) es := by
  induction tr generalizing n sel with
  | nil => rfl
  | cons e tr ih =>
    simp only [List.cons_append, framesFrom, ih, List.append_assoc, List.length_cons, selOf, List.foldl_cons]
    rw [show n + (tr.length + 1) = n + 1 + tr.length by omega]

/-- What later actions add to a frame trace. -/
theorem framesOf_append (c : Config) (got : Nat → Bool) (tr es : List Event) :
    framesOf c got (tr ++ es) = framesOf c got tr ++ framesFrom c got tr.length (selOf c none tr) es := by
  rw [framesOf, framesFrom_append, Nat.zero_add]; rfl

/-- A `sendCommand` answered ok adds its command frame and leaves the command selection. -/
theorem framesFrom_commandEvents (c : Config) (got : Nat → Bool) (n : Nat) (sel : Option Bool) (b : Byte) (es : List Event) :
    framesFrom c got n sel (commandEvents c b ++ es) =
      { sel := some false, b := b } :: framesFrom c got (n + 2) (some false) es := by
  simp [commandEvents, framesFrom, eventFrames]

/-- A `sendData` answered ok adds its data frame and leaves the data selection. -/
theorem framesFrom_dataEvents (c : Config) (got : Nat → Bool) (n : Nat) (sel : Option Bool) (b : Byte) (es : List Event) :
    framesFrom c got n sel (dataEvents c b ++ es) =
      { sel := some true, b := b } :: framesFrom c got (n + 2) (some true) es := by
  simp [dataEvents, framesFrom, eventFrames]

/-- Payload bytes sent one by one add their data frames. -/
theorem framesFrom_payload (c : Config) (got : Nat → Bool) (n : Nat) (sel : Option Bool) (p : List Byte) (es : List Event) :
    framesFrom c got n sel (p.flatMap (dataEvents c) ++ es) =
      p.map (fun b => { sel := some true, b := b }) ++
        framesFrom c got (n + 2 * p.length) (if p = [] then sel else some true) es := by
  induction p generalizing n sel with
  | nil => simp
  | cons b p ih =>
    rw [List.flatMap_cons, List.append_assoc, framesFrom_dataEvents, ih]
    simp only [List.map_cons, List.cons_append, List.length_cons, List.cons.injEq, true_and, if_neg (List.cons_ne_nil b p),
      ite_self]
    rw [show n + 2 * (p.length + 1) = n + 2 + 2 * p.length by omega]

/-- A register command answered ok adds its command frame and its payload's data frames, whatever the selection was. -/
theorem framesFrom_regEvents (c : Config) (got : Nat → Bool) (n : Nat) (sel : Option Bool) (op : Byte) (p : List Byte)
    (es : List Event) :
    framesFrom c got n sel (regEvents c op p ++ es) =
      { sel := some false, b := op } :: p.map (fun b => { sel := some true, b := b }) ++
        framesFrom c got (n + 2 + 2 * p.length) (if p = [] then some false else some true) es := by
  rw [regEvents, List.append_assoc, framesFrom_commandEvents, framesFrom_payload]; rfl

/-- The reset pulse adds no frame. -/
theorem framesFrom_resetEvents (c : Config) (got : Nat → Bool) (n : Nat) (sel : Option Bool) (es : List Event) :
    framesFrom c got n sel (resetEvents ++ es) = framesFrom c got (n + 6) sel es := by
  simp [resetEvents, framesFrom, eventFrames]

/-- A wait adds no frame. -/
theorem framesFrom_waitEvents (c : Config) (got : Nat → Bool) (n : Nat) (sel : Option Bool) (j : Nat) (es : List Event) :
    framesFrom c got n sel (waitEvents c j ++ es) = framesFrom c got (n + 2 * j + 1) sel es := by
  induction j generalizing n with
  | zero => simp [waitEvents, framesFrom, eventFrames]
  | succ j ih =>
    rw [show n + 2 * (j + 1) + 1 = n + 2 + 2 * j + 1 by omega, ← ih]
    simp [waitEvents, List.replicate_succ, framesFrom, eventFrames]

end Sys2Proof.Machine
end

