-- ==== Sys2Proof/Laws/PerInstr.lean ====
section
/-! SUPPORT. Per instruction: its word against its row of spec/opcode_table.json, copied here row by row (width, mask, match). -/

namespace Sys2Proof.Laws.TableRow

/-- A row of spec/opcode_table.json. -/
structure Row where
  bits : Nat
  mask : Nat
  value : Nat
deriving DecidableEq, Repr

/-- The row of each instruction: the format's width, "mask" and "match". -/
def row : Instr → Row
  | .panelSetting => ⟨9, 0x1FF, 0x000⟩
  | .powerSetting => ⟨9, 0x1FF, 0x001⟩
  | .powerOff => ⟨9, 0x1FF, 0x002⟩
  | .powerOn => ⟨9, 0x1FF, 0x004⟩
  | .boosterSoftStart => ⟨9, 0x1FF, 0x006⟩
  | .deepSleep => ⟨9, 0x1FF, 0x007⟩
  | .dataStartTransmission1 => ⟨9, 0x1FF, 0x010⟩
  | .displayRefresh => ⟨9, 0x1FF, 0x012⟩
  | .pllControl => ⟨9, 0x1FF, 0x030⟩
  | .temperatureCalibration => ⟨9, 0x1FF, 0x041⟩
  | .vcomAndDataIntervalSetting => ⟨9, 0x1FF, 0x050⟩
  | .tconSetting => ⟨9, 0x1FF, 0x060⟩
  | .tconResolution => ⟨9, 0x1FF, 0x061⟩
  | .vcmDcSetting => ⟨9, 0x1FF, 0x082⟩
  | .flashMode => ⟨9, 0x1FF, 0x0E5⟩
  | .powerOffSequenceSetting => ⟨9, 0x1FF, 0x003⟩
  | .powerOnMeasure => ⟨9, 0x1FF, 0x005⟩
  | .dataStop => ⟨9, 0x1FF, 0x011⟩
  | .imageProcess => ⟨9, 0x1FF, 0x013⟩
  | .lutForVcom => ⟨9, 0x1FF, 0x020⟩
  | .lutBlue => ⟨9, 0x1FF, 0x021⟩
  | .lutWhite => ⟨9, 0x1FF, 0x022⟩
  | .lutGray1 => ⟨9, 0x1FF, 0x023⟩
  | .lutGray2 => ⟨9, 0x1FF, 0x024⟩
  | .lutRed0 => ⟨9, 0x1FF, 0x025⟩
  | .lutRed1 => ⟨9, 0x1FF, 0x026⟩
  | .lutRed2 => ⟨9, 0x1FF, 0x027⟩
  | .lutRed3 => ⟨9, 0x1FF, 0x028⟩
  | .lutXon => ⟨9, 0x1FF, 0x029⟩
  | .temperatureSensorCommand => ⟨9, 0x1FF, 0x040⟩
  | .temperatureSensorWrite => ⟨9, 0x1FF, 0x042⟩
  | .temperatureSensorRead => ⟨9, 0x1FF, 0x043⟩
  | .lowPowerDetection => ⟨9, 0x1FF, 0x051⟩
  | .spiFlashControl => ⟨9, 0x1FF, 0x065⟩
  | .revision => ⟨9, 0x1FF, 0x070⟩
  | .getStatus => ⟨9, 0x1FF, 0x071⟩
  | .autoMeasurementVcom => ⟨9, 0x1FF, 0x080⟩
  | .readVcomValue => ⟨9, 0x1FF, 0x081⟩
  | .data _ => ⟨9, 0x100, 0x100⟩
  | .hostInitialize => ⟨2, 0x3, 0x0⟩
  | .hostRender => ⟨2, 0x3, 0x1⟩
  | .hostClear => ⟨2, 0x3, 0x2⟩
  | .hostSleep => ⟨2, 0x3, 0x3⟩
  | .endOp => ⟨12, 0xFFF, 0x000⟩
  | .cmd _ => ⟨12, 0xF00, 0x100⟩
  | .dat _ => ⟨12, 0xF00, 0x200⟩
  | .burst => ⟨12, 0xFFF, 0x300⟩
  | .wait => ⟨12, 0xFFF, 0x400⟩
  | .dly _ => ⟨12, 0xF00, 0x500⟩
  | .pin _ _ => ⟨12, 0xFEE, 0x600⟩
  | .pack => ⟨12, 0xFFF, 0x700⟩
  | .fill _ => ⟨12, 0xF00, 0x800⟩
  | .setst _ => ⟨12, 0xFFC, 0x900⟩

/-- A word with its width, as the table numbers its bits. -/
def wordBits : CodeWord → Nat × Nat
  | .host w => (2, w.toNat)
  | .uop w => (12, w.toNat)
  | .frame w => (9, w.toNat)

/-- The instruction's word, under the default opcode bytes, has its row's width and its row's fixed bits, and read back in
that width it is the instruction. -/
def Statement (i : Instr) : Prop :=
  (wordBits (encode Opcodes.standard i)).1 = (row i).bits ∧
  (wordBits (encode Opcodes.standard i)).2 &&& (row i).mask = (row i).value ∧
  decodeTableWord (row i).bits (wordBits (encode Opcodes.standard i)).2 = some i

/-- `Statement` as a test. -/
def holds (i : Instr) : Bool := decide
  ((wordBits (encode Opcodes.standard i)).1 = (row i).bits ∧
  (wordBits (encode Opcodes.standard i)).2 &&& (row i).mask = (row i).value ∧
  decodeTableWord (row i).bits (wordBits (encode Opcodes.standard i)).2 = some i)

theorem of_holds {i : Instr} (h : holds i = true) : Statement i := by
  unfold Statement; exact of_decide_eq_true h

/-- A statement about every byte, by trying them all. -/
theorem forall_byte {f : Byte → Bool} (h : ∀ n : Fin 256, f (BitVec.ofFin n) = true) (a : Byte) : f a = true := h a.toFin

theorem panelSetting : Statement .panelSetting := of_holds (by decide)
theorem powerSetting : Statement .powerSetting := of_holds (by decide)
theorem powerOff : Statement .powerOff := of_holds (by decide)
theorem powerOn : Statement .powerOn := of_holds (by decide)
theorem boosterSoftStart : Statement .boosterSoftStart := of_holds (by decide)
theorem deepSleep : Statement .deepSleep := of_holds (by decide)
theorem dataStartTransmission1 : Statement .dataStartTransmission1 := of_holds (by decide)
theorem displayRefresh : Statement .displayRefresh := of_holds (by decide)
theorem pllControl : Statement .pllControl := of_holds (by decide)
theorem temperatureCalibration : Statement .temperatureCalibration := of_holds (by decide)
theorem vcomAndDataIntervalSetting : Statement .vcomAndDataIntervalSetting := of_holds (by decide)
theorem tconSetting : Statement .tconSetting := of_holds (by decide)
theorem tconResolution : Statement .tconResolution := of_holds (by decide)
theorem vcmDcSetting : Statement .vcmDcSetting := of_holds (by decide)
theorem flashMode : Statement .flashMode := of_holds (by decide)
theorem powerOffSequenceSetting : Statement .powerOffSequenceSetting := of_holds (by decide)
theorem powerOnMeasure : Statement .powerOnMeasure := of_holds (by decide)
theorem dataStop : Statement .dataStop := of_holds (by decide)
theorem imageProcess : Statement .imageProcess := of_holds (by decide)
theorem lutForVcom : Statement .lutForVcom := of_holds (by decide)
theorem lutBlue : Statement .lutBlue := of_holds (by decide)
theorem lutWhite : Statement .lutWhite := of_holds (by decide)
theorem lutGray1 : Statement .lutGray1 := of_holds (by decide)
theorem lutGray2 : Statement .lutGray2 := of_holds (by decide)
theorem lutRed0 : Statement .lutRed0 := of_holds (by decide)
theorem lutRed1 : Statement .lutRed1 := of_holds (by decide)
theorem lutRed2 : Statement .lutRed2 := of_holds (by decide)
theorem lutRed3 : Statement .lutRed3 := of_holds (by decide)
theorem lutXon : Statement .lutXon := of_holds (by decide)
theorem temperatureSensorCommand : Statement .temperatureSensorCommand := of_holds (by decide)
theorem temperatureSensorWrite : Statement .temperatureSensorWrite := of_holds (by decide)
theorem temperatureSensorRead : Statement .temperatureSensorRead := of_holds (by decide)
theorem lowPowerDetection : Statement .lowPowerDetection := of_holds (by decide)
theorem spiFlashControl : Statement .spiFlashControl := of_holds (by decide)
theorem revision : Statement .revision := of_holds (by decide)
theorem getStatus : Statement .getStatus := of_holds (by decide)
theorem autoMeasurementVcom : Statement .autoMeasurementVcom := of_holds (by decide)
theorem readVcomValue : Statement .readVcomValue := of_holds (by decide)
set_option maxRecDepth 8000 in
theorem data (a : Byte) : Statement (.data a) :=
  of_holds (forall_byte (f := fun a => holds (.data a)) (by decide) a)
theorem hostInitialize : Statement .hostInitialize := of_holds (by decide)
theorem hostRender : Statement .hostRender := of_holds (by decide)
theorem hostClear : Statement .hostClear := of_holds (by decide)
theorem hostSleep : Statement .hostSleep := of_holds (by decide)
theorem endOp : Statement .endOp := of_holds (by decide)
set_option maxRecDepth 8000 in
theorem cmd (a : Byte) : Statement (.cmd a) :=
  of_holds (forall_byte (f := fun a => holds (.cmd a)) (by decide) a)
set_option maxRecDepth 8000 in
theorem dat (a : Byte) : Statement (.dat a) :=
  of_holds (forall_byte (f := fun a => holds (.dat a)) (by decide) a)
theorem burst : Statement .burst := of_holds (by decide)
theorem wait : Statement .wait := of_holds (by decide)
set_option maxRecDepth 8000 in
theorem dly (a : Byte) : Statement (.dly a) :=
  of_holds (forall_byte (f := fun a => holds (.dly a)) (by decide) a)
theorem pin (p : OutPin) (l : Level) : Statement (.pin p l) := of_holds (by cases p <;> cases l <;> decide)
theorem pack : Statement .pack := of_holds (by decide)
set_option maxRecDepth 8000 in
theorem fill (a : Byte) : Statement (.fill a) :=
  of_holds (forall_byte (f := fun a => holds (.fill a)) (by decide) a)
theorem setst (s : CtrlState) : Statement (.setst s) := of_holds (by cases s <;> decide)

end Sys2Proof.Laws.TableRow
end

