-- ==== Sys2Proof/Laws/Step.lean ====
section
/-! SUPPORT. The inversion of `step`: everything a step can do, said once; and the words that decode to WAIT and to the host
operations. -/

namespace Sys2Proof.Machine

/-- A host code names one operation (R87). -/
theorem decodeHost_cases (w : BitVec 2) : ∃ op, decodeHost w = .ofHostOp op ∧ w = hostCode op := by
  have : ∀ w : BitVec 2, w = 0#2 ∨ w = 1#2 ∨ w = 2#2 ∨ w = 3#2 := by decide
  rcases this w with rfl | rfl | rfl | rfl
  · exact ⟨.init, rfl, rfl⟩
  · exact ⟨.render, rfl, rfl⟩
  · exact ⟨.clear, rfl, rfl⟩
  · exact ⟨.sleep, rfl, rfl⟩

@[simp] theorem decodeHost_hostCode (op : HostOp) : decodeHost (hostCode op) = .ofHostOp op := by cases op <;> rfl

/-- Only the word `0x400` decodes to WAIT (R90). -/
theorem decodeUop_wait {w : BitVec 12} (h : decodeUop w = .ok .wait) : w = 0x400#12 := by
  have : ∀ w : BitVec 12, decodeUop w = .ok .wait → w.extractLsb' 8 4 = 4#4 ∧ w.extractLsb' 0 8 = 0#8 := by
    intro w h
    rw [uop_split w, decodeUop_append] at h
    generalize w.extractLsb' 0 8 = a at h ⊢
    generalize hk : w.extractLsb' 8 4 = k at h ⊢
    unfold decodeKind at h
    simp only [noOperand, decodePin, decodeSetst] at h
    split at h
    all_goals (try split at h) <;> (try split at h) <;> simp_all
    apply BitVec.eq_of_toNat_eq; simpa using ‹k.toNat = 4›
  obtain ⟨h1, h2⟩ := this w h
  rw [uop_split w, h1, h2]; rfl

theorem command_ne_wait (n : OpName) : Instr.command n ≠ .wait := by cases n <;> simp [Instr.command]
theorem command_ne_ofHostOp (n : OpName) (op : HostOp) : Instr.command n ≠ .ofHostOp op := by
  cases op <;> cases n <;> simp [Instr.command, Instr.ofHostOp]

/-- Only the word `0x400` decodes to WAIT, in every format. -/
theorem decode_wait {K : Opcodes} {w : CodeWord} (h : decode K w = .ok .wait) : w = .uop 0x400#12 := by
  cases w with
  | host w => obtain ⟨op, h', _⟩ := decodeHost_cases w; rw [decode, h'] at h; cases op <;> simp [Instr.ofHostOp] at h
  | uop w => rw [decodeUop_wait h]
  | frame w =>
    simp only [decode, decodeFrame, decodeCommand] at h
    split at h
    · simp at h
    · split at h
      · simp only [Except.ok.injEq] at h; exact absurd h (command_ne_wait _)
      · simp at h

/-- THE INVERSION OF `step`: it runs the instruction at `upc`, or stands idle, or takes the host's oldest request, which is
accepted or rejected (R25, R27, R232). -/
theorem step_cases {s t : State} (h : step s = .next t) :
    (∃ op w i, s.cur = some op ∧ fetchWord s op = some w ∧ decode s.cfg.ops w = .ok i ∧ Ran op s i t) ∨
    (s.cur = none ∧ s.hostq = [] ∧ t = s) ∨
    (∃ op r rest, s.cur = none ∧ s.hostq = r :: rest ∧ r.code = hostCode op ∧
      ((mayStart op s.st = true ∧
          t = { s with hostq := rest, bm := r.bm.getD s.bm, cur := some op, upc := 0, polls := 0 }) ∨
       (mayStart op s.st = false ∧
          t = raiseExc op (.wrongState op s.st) { s with hostq := rest, bm := r.bm.getD s.bm }))) := by
  cases hc : s.cur with
  | some op =>
    simp only [step, hc, stepScript] at h
    cases hf : fetchWord s op with
    | none => simp [hf] at h
    | some w =>
      simp only [hf, execWord] at h
      cases hd : decode s.cfg.ops w with
      | error e => simp [hd] at h
      | ok i =>
        simp only [hd] at h
        rcases exec_ran h with ⟨o, _, hn, _⟩ | ⟨o, ho, hr⟩
        · simp [hc] at hn
        · rw [hc] at ho; injection ho with ho; subst ho
          exact .inl ⟨op, w, i, rfl, hf, hd, hr⟩
  | none =>
    simp only [step, hc, stepIdle] at h
    cases hq : s.hostq with
    | nil => simp only [hq, Host.Outcome.next.injEq] at h; exact .inr (.inl ⟨rfl, rfl, h.symm⟩)
    | cons r rest =>
      obtain ⟨op, hop, hcode⟩ := decodeHost_cases r.code
      simp only [hq, execWord, decode, hop, exec_ofHostOp] at h
      refine .inr (.inr ⟨op, r, rest, rfl, rfl, hcode, ?_⟩)
      rcases (issue_next h).2 with ⟨hm, rfl⟩ | ⟨hm, rfl⟩
      · exact .inl ⟨hm, rfl⟩
      · exact .inr ⟨hm, rfl⟩

end Sys2Proof.Machine
end

