-- ==== Sys2Proof/Tests/Slice0.lean ====
section
/-! SUPPORT. Tests. Expected values are the vectors of spec/95_test_vectors.md (their ids stand in the names) or written out
by hand from the rules. The second half shows, for each statement that has hypotheses, a concrete state and operands that
meet them all (`witness_<statement>`). -/

open Sys2Proof Sys2Proof.Machine

namespace Sys2Proof.Tests

/-! ### Helpers -/

/-- An ok answer; a read of BUSY answers LOW. -/
def ok : Answer := { ok := true, level := .low, sent := 0 }
/-- An ok answer; a read of BUSY answers HIGH. -/
def high : Answer := { ok := true, level := .high, sent := 0 }
/-- A failed action. -/
def lost : Answer := { ok := false, level := .low, sent := 5 }

/-- The block in operation `op`, at its script's first step, with these answers to come. -/
def running (op : HostOp) (as : List Answer) : State := { State.reset with cur := some op, answers := as }

/-- The block Idle in state `st` with these requests. -/
def idle (st : CtrlState) (q : List HostReq) : State := { State.reset with st := st, hostq := q }

/-- The same with another configuration and its scripts. -/
def withConfig (s : State) (c : Config) : State := { s with cfg := c, rom := Rom.ofConfig c }

/-- A request without a bitmap. -/
def req (op : HostOp) : HostReq := { code := hostCode op, bm := none }

/-- Whether an outcome is a next state of which `f` holds. -/
def after (o : Host.Outcome State Fault Refusal) (f : State → Bool) : Bool :=
  match o with
  | .next t => f t
  | _ => false

/-- Whether a part of a step ended the operation in a state of which `f` holds. -/
def overWith (r : StepEnd) (f : State → Bool) : Bool :=
  match r with
  | .over t => f t
  | _ => false

/-- Whether a part of a step went well into a state of which `f` holds. -/
def doneWith (r : StepEnd) (f : State → Bool) : Bool :=
  match r with
  | .done t => f t
  | _ => false

/-! ### Decoding: words written out bit by bit from R80, R87, R90 -/

theorem test_decode_frames :
    decode Opcodes.standard (.frame 0b011100101#9) = .ok .flashMode ∧       -- V-ENC-1
    decode Opcodes.standard (.frame 0b001100001#9) = .ok .tconResolution ∧  -- V-ENC-4
    decode Opcodes.standard (.frame 0b000000000#9) = .ok .panelSetting ∧    -- V-FRM-5
    decode Opcodes.standard (.frame 0b000101001#9) = .ok .lutXon ∧          -- R96
    decode Opcodes.standard (.frame 0b100000000#9) = .ok (.data 0x00#8) ∧   -- V-ENC-2
    decode Opcodes.standard (.frame 0b111111111#9) = .ok (.data 0xFF#8) ∧   -- V-ENC-3
    decode Opcodes.standard (.frame 0b101100001#9) = .ok (.data 0x61#8) := by decide -- V-ENC-4

theorem test_decode_steps :
    decode Opcodes.standard (.uop 0b000000000000#12) = .ok .endOp ∧
    decode Opcodes.standard (.uop 0b000100010010#12) = .ok (.cmd 0x12#8) ∧        -- V-ENC-5
    decode Opcodes.standard (.uop 0b001010100101#12) = .ok (.dat 0xA5#8) ∧
    decode Opcodes.standard (.uop 0b001100000000#12) = .ok .burst ∧
    decode Opcodes.standard (.uop 0b010000000000#12) = .ok .wait ∧
    decode Opcodes.standard (.uop 0b010111001000#12) = .ok (.dly 200#8) ∧         -- V-ENC-6
    decode Opcodes.standard (.uop 0b011100000000#12) = .ok .pack ∧
    decode Opcodes.standard (.uop 0b100000110011#12) = .ok (.fill 0x33#8) := by decide -- V-ENC-9

theorem test_decode_pin_and_setst :
    decode Opcodes.standard (.uop 0b011000000000#12) = .ok (.pin .rst .low) ∧     -- V-ENC-7
    decode Opcodes.standard (.uop 0b011000000001#12) = .ok (.pin .rst .high) ∧
    decode Opcodes.standard (.uop 0b011000010000#12) = .ok (.pin .dc .low) ∧
    decode Opcodes.standard (.uop 0b011000010001#12) = .ok (.pin .dc .high) ∧
    decode Opcodes.standard (.uop 0b100100000000#12) = .ok (.setst .uninitialized) ∧ -- V-ENC-8
    decode Opcodes.standard (.uop 0b100100000001#12) = .ok (.setst .ready) ∧
    decode Opcodes.standard (.uop 0b100100000010#12) = .ok (.setst .asleep) := by decide

theorem test_decode_host :  -- V-ENC-11
    decode Opcodes.standard (.host 0b00#2) = .ok .hostInitialize ∧ decode Opcodes.standard (.host 0b01#2) = .ok .hostRender ∧
    decode Opcodes.standard (.host 0b10#2) = .ok .hostClear ∧ decode Opcodes.standard (.host 0b11#2) = .ok .hostSleep := by decide

theorem test_decode_reserved :  -- V-ENC-10, R97
    decode Opcodes.standard (.uop 0xA00#12) = .error .reservedKind ∧
    decode Opcodes.standard (.uop 0xFFF#12) = .error .reservedKind ∧
    decode Opcodes.standard (.uop 0x001#12) = .error .operandNotZero ∧
    decode Opcodes.standard (.uop 0x701#12) = .error .operandNotZero ∧
    decode Opcodes.standard (.uop 0x602#12) = .error .pinBits ∧
    decode Opcodes.standard (.uop 0x904#12) = .error .operandNotZero ∧
    decode Opcodes.standard (.uop 0x903#12) = .error .reservedState ∧
    decode Opcodes.standard (.frame 0x0FF#9) = .error .unknownOpcode := by decide

/-- The same words through the table's numbering; in 16 bits a word that is a script step is that (log entry 6). -/
theorem test_table_words :
    decodeTableWord 8 3 = some .hostSleep ∧ decodeTableWord 8 4 = none ∧
    decodeTableWord 9 0 = some .panelSetting ∧ decodeTableWord 12 0 = some .endOp ∧ decodeTableWord 16 0 = some .endOp ∧
    decodeTableWord 16 0x0E5 = some .flashMode ∧ decodeTableWord 16 0x5C8 = some (.dly 200#8) ∧
    decodeTableWord 9 0x161 = some (.data 0x61#8) ∧ decodeTableWord 16 0xA00 = none ∧ decodeTableWord 16 0x1000 = none := by decide

/-! ### Well-formedness: what the checks refuse -/

theorem test_wf_duplicate_opcodes : (({ Opcodes.standard with powerOn := 0x00#8 }) : Opcodes).distinct = false := by decide
theorem test_wf_max_polls_zero : (({ Config.standard with maxPolls := some 0 }) : Config).wellFormed = false := by decide
theorem test_wf_max_polls_one : (({ Config.standard with maxPolls := some 1 }) : Config).wellFormed = true := by decide
theorem test_wf_empty_script : scriptWellFormed [] = false := by decide
theorem test_wf_no_end : scriptWellFormed [.wait] = false := by decide
theorem test_wf_end_inside : scriptWellFormed [.wait, .endOp, .wait, .endOp] = false := by decide
theorem test_wf_pin_dc : scriptWellFormed [.pin .dc .low, .endOp] = false := by decide
theorem test_wf_delay_50 : scriptWellFormed [.dly 50#8, .endOp] = false := by decide
theorem test_wf_frame_in_script : scriptWellFormed [.powerOn, .endOp] = false := by decide
theorem test_wf_host_op_in_script : scriptWellFormed [.hostSleep, .endOp] = false := by decide
theorem test_wf_accepts : scriptWellFormed [.pin .rst .low, .dly 200#8, .cmd 0#8, .endOp] = true := by decide

/-! ### The framer -/

theorem test_V_FRM_1 : after (exec (.cmd 0x12#8) (running .init [ok, ok])) (fun t =>
    t.trace == [.setPin .dc .low true, .txByte 0x12#8 true] && t.dcLatch == some .low && t.upc == 1) = true := by decide

theorem test_V_FRM_2 : after (exec (.dat 0xA5#8) (running .init [ok, ok])) (fun t =>
    t.trace == [.setPin .dc .high true, .txByte 0xA5#8 true] && t.dcLatch == some .high) = true := by decide

/-- V-FRM-3: DC is driven again although it is high already. -/
theorem test_V_FRM_3 : after (exec (.dat 0x80#8) { running .init [ok, ok] with dcLatch := some .high }) (fun t =>
    t.trace == [.setPin .dc .high true, .txByte 0x80#8 true]) = true := by decide

theorem test_V_FRM_4 : doneWith (sendDataBurst .render [0x03#8, 0x30#8, 0x33#8] (running .render [ok, ok])) (fun t =>
    t.trace == [.setPin .dc .high true, .txBurst [0x03#8, 0x30#8, 0x33#8] none] &&
    t.frameTrace.map Frame.word == [some 0x103#9, some 0x130#9, some 0x133#9]) = true := by decide

theorem test_V_FRM_5 : after (exec .panelSetting (running .init [ok, ok])) (fun t =>
    t.trace == [.setPin .dc .low true, .txByte 0x00#8 true] && t.frameTrace.map Frame.word == [some 0x000#9]) = true := by decide

theorem test_V_FRM_6 : after (exec .dataStartTransmission1 (running .render [ok, lost])) (fun t =>
    t.trace == [.setPin .dc .low true, .txByte 0x10#8 false] && t.dcLatch == some .low &&
    t.res == .exc (.transportFailure .render 0 (.txByte 0x10#8)) && t.cur == none) = true := by decide

theorem test_V_FRM_7 : after (exec .dataStartTransmission1 { running .render [lost] with dcLatch := some .high }) (fun t =>
    t.trace == [.setPin .dc .low false] && t.dcLatch == none && t.frameTrace == [] &&
    t.res == .exc (.transportFailure .render 0 (.setPin .dc .low))) = true := by decide

theorem test_V_FRM_8 : after (exec .displayRefresh
    (withConfig (running .clear [ok, ok]) { Config.standard with dcCommandLevel := .high })) (fun t =>
    t.trace == [.setPin .dc .high true, .txByte 0x12#8 true] && t.frameTrace.map Frame.word == [some 0x012#9]) = true := by decide

/-- An opcode no script sends (R96) runs like the others (log entry 9). -/
theorem test_lut_xon : after (exec .lutXon (running .init [ok, ok])) (fun t =>
    t.trace == [.setPin .dc .low true, .txByte 0x29#8 true] && t.frameTrace.map Frame.word == [some 0x029#9]) = true := by decide

theorem test_data_frame : after (exec (.data 0x37#8) (running .init [ok, ok])) (fun t =>
    t.trace == [.setPin .dc .high true, .txByte 0x37#8 true] && t.frameTrace.map Frame.word == [some 0x137#9]) = true := by decide

/-- R92, R54: frames read back as register commands; a data frame before any command is rejected. -/
theorem test_register_commands :
    regCommands Opcodes.standard [⟨some false, 0x61#8⟩, ⟨some true, 0x02#8⟩, ⟨some true, 0x80#8⟩, ⟨some false, 0x04#8⟩] =
      some [(.tconResolution, [0x02#8, 0x80#8]), (.powerOn, [])] ∧
    regCommands Opcodes.standard [⟨some true, 0x61#8⟩] = none ∧
    lastPayload .powerOn [(.powerOn, [0x01#8]), (.dataStop, []), (.powerOn, [])] = some [] := by decide

/-- R36: a failed burst with `k = 2` contributes its first two frames; after a failed `SetPin` the selection is unknown. -/
theorem test_frames_of_failures :
    framesOf Config.standard (fun _ => false) [.setPin .dc .high true, .txBurst [1#8, 2#8, 3#8] (some 2), .setPin .dc .low false,
      .txByte 4#8 true, .txByte 5#8 false] = [⟨some true, 1#8⟩, ⟨some true, 2#8⟩, ⟨none, 4#8⟩] := by decide

/-! ### The busy synchronizer -/

theorem test_V_WAIT_1 : after (exec .wait (running .sleep [ok])) (fun t =>
    t.trace == [.readPin (some .low)] && t.polls == 0 && t.upc == 1) = true := by decide

/-- V-WAIT-2, its first iteration: one read, one delay, the step repeats. -/
theorem test_V_WAIT_2 : after (exec .wait (running .sleep [high])) (fun t =>
    t.trace == [.readPin (some .high), .delay 100] && t.polls == 1 && t.upc == 0 && t.cur == some .sleep) = true := by decide

/-- V-WAIT-3, its third read. -/
theorem test_V_WAIT_3 : after (exec .wait
    { withConfig (running .sleep [high]) { Config.standard with maxPolls := some 3 } with polls := 2 }) (fun t =>
    t.trace == [.readPin (some .high)] && t.polls == 0 && t.res == .exc (.timeout .sleep 0 3) && t.st == .uninitialized) = true := by
  decide

theorem test_V_WAIT_4 : after (exec .wait (withConfig (running .sleep [high]) { Config.standard with maxPolls := some 1 }))
    (fun t => t.trace == [.readPin (some .high)] && t.res == .exc (.timeout .sleep 0 1)) = true := by decide

/-- V-WAIT-5, its second read: the bound is not reached. -/
theorem test_V_WAIT_5 : after (exec .wait
    { withConfig (running .sleep [ok]) { Config.standard with maxPolls := some 2 } with polls := 1 }) (fun t =>
    t.trace == [.readPin (some .low)] && t.polls == 0 && t.upc == 1) = true := by decide

theorem test_V_WAIT_7 : after (exec .wait (running .sleep [lost])) (fun t =>
    t.trace == [.readPin none] && t.res == .exc (.transportFailure .sleep 0 .readPin)) = true := by decide

/-- V-WAIT-8: with the idle level HIGH, LOW is busy. -/
theorem test_V_WAIT_8 : after (exec .wait (withConfig (running .sleep [ok]) { Config.standard with busyIdleLevel := .high }))
    (fun t => t.trace == [.readPin (some .low), .delay 100] && t.polls == 1) = true := by decide

/-! ### The packer -/

theorem test_V_PACK_1 : [0#8, 1#8, 63#8, 64#8, 65#8, 127#8, 128#8, 255#8].map nibbleCode =
    [0x0#4, 0x0#4, 0x0#4, 0x3#4, 0x3#4, 0x3#4, 0x3#4, 0x3#4] := by decide

theorem test_V_PACK_2 :
    [pairByte 0#8 0#8, pairByte 63#8 63#8, pairByte 63#8 64#8, pairByte 64#8 63#8, pairByte 64#8 64#8, pairByte 255#8 255#8,
      pairByte 0#8 255#8, pairByte 255#8 0#8] =
    [0x00#8, 0x00#8, 0x03#8, 0x30#8, 0x33#8, 0x33#8, 0x03#8, 0x30#8] := by decide

theorem test_V_PACK_4 : [fbIndex 0 0, fbIndex 1 0, fbIndex 2 0, fbIndex 638 0, fbIndex 639 0, fbIndex 0 1, fbIndex 2 1,
    fbIndex 5 2, fbIndex 639 383] = [0, 0, 1, 319, 319, 320, 321, 642, 122879] := by decide

/-- A white bitmap with one black pixel. -/
def onePixel (x y : Nat) : Bitmap := { width := 640, height := 384, ground := 255#8, pixels := [(y * 640 + x, 0#8)] }

theorem test_V_PACK_5 : packedByte (onePixel 0 0) 0 = 0x03#8 ∧ packedByte (onePixel 1 0) 0 = 0x30#8 ∧
    packedByte (onePixel 2 1) 321 = 0x03#8 ∧ packedByte (onePixel 5 2) 642 = 0x30#8 ∧
    packedByte (onePixel 639 383) 122879 = 0x30#8 ∧ packedByte (onePixel 5 2) 641 = 0x33#8 := by decide

/-- V-PACK-3: row 0 begins with luminances 10, 200, 64, 63. -/
theorem test_V_PACK_3 : (List.range 2).map (packedByte
    { width := 640, height := 384, ground := 0#8, pixels := [(0, 10#8), (1, 200#8), (2, 64#8), (3, 63#8)] }) =
    [0x03#8, 0x30#8] := by decide

/-- V-PACK-7 on its first bytes: pixel (x, y) black iff x + y is even, the pixels of x < 8, y < 2 written out. -/
theorem test_V_PACK_7 : [0, 1, 2, 3, 320, 321, 322, 323].map (packedByte
    { width := 640, height := 384, ground := 255#8,
      pixels := [(0, 0#8), (2, 0#8), (4, 0#8), (6, 0#8), (641, 0#8), (643, 0#8), (645, 0#8), (647, 0#8)] }) =
    [0x03#8, 0x03#8, 0x03#8, 0x03#8, 0x30#8, 0x30#8, 0x30#8, 0x30#8] := by decide

/-- V-PACK-8 and V-OP-9: 640 by 383. -/
theorem test_V_PACK_8 : after (exec .pack
    { running .render [] with st := .ready, bm := { width := 640, height := 383, ground := 0#8, pixels := [] } }) (fun t =>
    t.res == .exc (.wrongDimensions 640 383) && t.st == .ready && t.fb == [] && t.fbValid == false && t.trace == []) = true := by
  decide

/-- PACK with a bitmap of the panel's size: the last byte of V-PACK-5. -/
theorem test_pack_last_byte : ∃ t, exec .pack { running .render [] with bm := onePixel 639 383 } = .next t ∧
    t.fbValid = true ∧ Memory.read t.fb 122879 = some 0x30#8 := by
  refine ⟨_, rfl, rfl, ?_⟩
  have h := Memory.read_writeBytes ((List.range fbLen).map (packedByte (onePixel 639 383))) 0 [] 122879
    (by rw [List.length_map, List.length_range, fbLen_eq]; decide)
  have hl : (List.range fbLen)[122879]? = some 122879 := by rw [List.getElem?_range (by rw [fbLen_eq]; omega)]
  rw [List.getElem?_map, hl] at h
  exact h

/-! ### The other steps -/

theorem test_fill_ends : ∃ t, exec (.fill 0x33#8) (running .clear []) = .next t ∧
    t.fbValid = true ∧ Memory.read t.fb 122879 = some 0x33#8 ∧ Memory.read t.fb 122880 = none := by
  refine ⟨_, rfl, rfl, ?_, ?_⟩
  · have h := Memory.read_writeBytes (List.replicate fbLen 0x33#8) 0 [] 122879
      (by rw [List.length_replicate, fbLen_eq]; decide)
    rw [List.getElem?_replicate, if_pos (by rw [fbLen_eq]; decide)] at h
    exact h
  · exact Memory.read_writeBytes_above (List.replicate fbLen 0x33#8) 0 [] 122880
      (by rw [List.length_replicate, fbLen_eq])

/-- A short FB stands for the burst's order: what is written is read, in ascending order, the rest is free. -/
theorem test_burst_order (free : Nat → Byte) :
    Memory.readRange free 4 0 [(1, 0x11#8), (2, 0x22#8)] = [free 0, 0x11#8, 0x22#8, free 3] := rfl

theorem test_bytes_overwrite : Memory.writeBytes 1 [7#8, 8#8] [(0, 1#8), (2, 2#8), (5, 3#8)] =
    [(0, 1#8), (1, 7#8), (2, 8#8), (5, 3#8)] := by decide

theorem test_burst_failed_prefix : after (exec .burst (running .render [lost])) (fun t =>
    t.trace == [.setPin .dc .high false] && t.st == .uninitialized && t.upc == 0) = true := by decide

theorem test_dly_200 : after (exec (.dly 200#8) (running .init [lost])) (fun t =>
    t.trace == [.delay 200] && t.upc == 1 && t.answers == [lost]) = true := by decide

theorem test_pin_rst_low : after (exec (.pin .rst .low) (running .init [ok])) (fun t =>
    t.trace == [.setPin .rst .low true] && t.rstLatch == some .low && t.dcLatch == none) = true := by decide

theorem test_V_INIT_6 : after (exec (.pin .rst .high) { running .init [lost] with upc := 1, rstLatch := some .high }) (fun t =>
    t.rstLatch == none && t.st == .uninitialized && t.res == .exc (.transportFailure .init 1 (.setPin .rst .high))) = true := by
  decide

theorem test_setst : after (exec (.setst .asleep) (running .sleep [])) (fun t =>
    t.st == .asleep && t.upc == 1 && t.trace == []) = true := by decide

theorem test_end : after (exec .endOp { running .sleep [] with upc := 5, res := .exc (.wrongState .clear .asleep) }) (fun t =>
    t.res == .ok && t.cur == none && t.upc == 0) = true := by decide

theorem test_result_codes :  -- V-ENC-13
    Result.ok.code = 0#2 ∧ (Result.exc (.transportFailure .init 0 .readPin)).code = 1#2 ∧
    (Result.exc (.wrongDimensions 1 1)).code = 2#2 ∧ (Result.exc (.wrongState .clear .asleep)).code = 2#2 ∧
    (Result.exc (.timeout .init 18 3)).code = 3#2 := by decide

theorem test_res_payload : resPayload = [0x02#8, 0x80#8, 0x01#8, 0x80#8] := by decide  -- V-ENC-14

/-! ### Operations -/

theorem test_V_OP_5 : after (step (idle .uninitialized [req .render])) (fun t =>
    t.res == .exc (.wrongState .render .uninitialized) && t.st == .uninitialized && t.faults.length == 1 && t.trace == [] &&
    t.hostq == []) = true := by decide

theorem test_V_OP_6 : after (step (idle .asleep [req .clear])) (fun t =>
    t.res == .exc (.wrongState .clear .asleep) && t.st == .asleep) = true := by decide

theorem test_V_OP_7 : after (step (idle .asleep [req .sleep])) (fun t =>
    t.res == .exc (.wrongState .sleep .asleep) && t.st == .asleep) = true := by decide

/-- INITIALIZE is accepted while Asleep (R233); the script starts at its first step. -/
theorem test_initialize_from_asleep : after (step (idle .asleep [req .init, req .sleep])) (fun t =>
    t.cur == some .init && t.upc == 0 && t.st == .asleep && t.hostq == [req .sleep]) = true := by decide

/-- A RENDER's bitmap is at the port when it is accepted (R32). -/
theorem test_render_latches_bitmap : after (step (idle .ready [{ code := 1#2, bm := some (onePixel 3 3) }])) (fun t =>
    t.cur == some .render && t.bm == onePixel 3 3) = true := by decide

theorem test_busy_host_op_refused : exec .hostSleep (running .init []) = .refused .hostBusy := rfl

/-! ### The step -/

/-- INITIALIZE's step 0 (R233). -/
theorem test_step_runs_script : after (step { running .init [] with st := .ready }) (fun t =>
    t.st == .uninitialized && t.upc == 1) = true := by decide

theorem test_step_overrun_faults : step { running .sleep [] with upc := 6 } = .fault .scriptOverrun := rfl

theorem test_step_bad_word_refused :
    step { running .sleep [] with rom := (Rom.ofConfig Config.standard).setWords .sleep [.uop 0xA00#12] } =
    .refused (.badWord .reservedKind) := rfl

theorem test_fetch_word_runs : after (step (State.reset.withFetchWord 16 0x5C8)) (fun t => t.trace == [.delay 200]) = true ∧
    after (step (State.reset.withFetchWord 8 0)) (fun t => t.cur == some .init) = true ∧
    after (step (State.withFetchWord { State.reset with answers := [ok, ok] } 16 0x0E5)) (fun t =>
      t.trace == [.setPin .dc .low true, .txByte 0xE5#8 true]) = true := by decide

/-! ### Witnesses: the script steps and frames -/

/-- Both actions answered ok. -/
theorem witness_both_ok : (running .init [ok, ok]).cur = some .init ∧ (running .init [ok, ok]).answer.ok = true ∧
    (running .init [ok, ok]).consume.answer.ok = true := by decide

/-- The pin action ok, the transmission failed. -/
theorem witness_second_lost : (running .render [ok, lost]).cur = some .render ∧
    (running .render [ok, lost]).answer.ok = true ∧ (running .render [ok, lost]).consume.answer.ok = false := by decide

/-- The pin action failed. -/
theorem witness_first_lost : (running .render [lost]).cur = some .render ∧ (running .render [lost]).answer.ok = false := by
  decide

theorem witness_CmdStepSendsOneCommandByte :
    ((running .init [ok, ok]).cur = some .init ∧ (running .init [ok, ok]).consume.answer.ok = true) ∧
    (running .init [ok, lost]).consume.answer.ok = false ∧ (running .init [lost]).answer.ok = false := by decide

theorem witness_DatStepSendsOneDataByte :
    ((running .sleep [ok, ok]).cur = some .sleep ∧ (running .sleep [ok, ok]).consume.answer.ok = true) ∧
    (running .sleep [ok, lost]).consume.answer.ok = false ∧ (running .sleep [lost]).answer.ok = false := by decide

theorem witness_BurstStepSendsWholeFramebuffer :
    ((running .clear [ok, ok]).cur = some .clear ∧ (running .clear [ok, ok]).consume.answer.ok = true) ∧
    (running .clear [ok, lost]).consume.answer.ok = false ∧ (running .clear [lost]).answer.ok = false := by decide

/-- The premises about scripts: where the steps stand. -/
theorem witness_steps_in_scripts : (script Config.standard .clear)[2]? = some .burst ∧
    Instr.pin .rst .low ∈ script Config.standard .init ∧ Instr.dly 100#8 ∈ script Config.standard .render ∧
    Instr.dly 200#8 ∈ script Config.standard .init ∧ (script Config.standard .render)[0]? = some .pack := by decide

theorem witness_burst_reads_boundaries : 0 < fbLen ∧ 122879 < fbLen ∧
    Memory.read { running .clear [] with fb := [(0, 1#8), (122879, 2#8)] }.fb 122879 = some 2#8 := by
  rw [fbLen_eq]; decide

theorem witness_PinStepDrivesPinAndLatch : (running .init [ok]).cur = some .init ∧ (running .init [ok]).answer.ok = true ∧
    (running .init [lost]).answer.ok = false := by decide

theorem witness_DlyStepOnlyDelays : (running .render []).cur = some .render := rfl

theorem witness_PackStepPacksOrRejects :
    ((running .render []).cur = some .render ∧ (onePixel 0 0).width = 640 ∧ (onePixel 0 0).height = 384) ∧
    { onePixel 0 0 with width := 639 }.width ≠ 640 ∧ { onePixel 0 0 with height := 383 }.height ≠ 384 := by decide

theorem witness_FillStepFillsFramebuffer : (running .clear []).cur = some .clear := rfl
theorem witness_SetstStepWritesOnlySt : (running .sleep []).cur = some .sleep := rfl
theorem witness_EndStepCompletesOperation : (running .sleep []).cur = some .sleep := rfl

/-- The four clauses of WAIT; for the bound, the read just below it and the one at it. -/
theorem witness_WaitStepIsOnePoll :
    ((running .sleep [ok]).answer.ok = true ∧ (running .sleep [ok]).answer.level = Config.standard.idleLevel) ∧
    ((running .sleep [high]).answer.ok = true ∧ (running .sleep [high]).answer.level ≠ Config.standard.idleLevel ∧
      ({ running .sleep [high] with polls := 1 }).polls + 1 < 3) ∧
    3 ≤ ({ running .sleep [high] with polls := 2 }).polls + 1 ∧ (running .sleep [lost]).answer.ok = false := by decide

theorem witness_CommandFrameSendsItsOpcode : (running .init [ok, ok]).cur = some .init ∧
    (running .init [ok, ok]).consume.answer.ok = true ∧ (running .init [ok, lost]).consume.answer.ok = false ∧
    (running .init [lost]).answer.ok = false := by decide

theorem witness_DataFrameSendsItsByte : (running .init [ok, ok]).cur = some .init ∧
    (running .init [ok, ok]).consume.answer.ok = true ∧ (running .init [ok, lost]).consume.answer.ok = false ∧
    (running .init [lost]).answer.ok = false := by decide

/-! ### Witnesses: acceptance and the step -/

theorem witness_InitializeAcceptedInEveryState : (idle .uninitialized []).cur = none ∧ (idle .ready []).cur = none ∧
    (idle .asleep []).cur = none := by decide

theorem witness_RenderClearSleepAcceptedInReady : (idle .ready []).cur = none ∧ (idle .ready []).st = .ready := by decide

theorem witness_OperationsOutsideReadyRejected : (idle .asleep []).cur = none ∧ (idle .asleep []).st ≠ .ready ∧
    (idle .uninitialized []).st ≠ .ready ∧ HostOp.sleep ≠ .init := by decide

theorem witness_OperationWhileBusyRefused : (running .render []).cur = some .render := rfl

/-- SLEEP's WAIT at `upc` 1. -/
def atWait (as : List Answer) : State := { running .sleep as with st := .ready, upc := 1 }

theorem witness_StepRunsScriptWordAtUpc : (atWait []).cur = some .sleep ∧
    ((atWait []).rom.words .sleep)[(atWait []).upc]? = some (.uop 0x400#12) ∧
    decode (atWait []).cfg.ops (.uop 0x400#12) = .ok .wait := by decide

theorem witness_IdleStepRunsOldestRequest :
    ((idle .ready [req .clear, req .sleep]).cur = none ∧
      (idle .ready [req .clear, req .sleep]).hostq = req .clear :: [req .sleep] ∧ (req .clear).code = hostCode .clear) ∧
    (idle .ready []).hostq = [] := by decide

/-- The three outcomes: the end of the operation, a repeated WAIT, one further. -/
theorem witness_UpcAdvancesRepeatsOrEnds :
    (∃ t, step { running .sleep [] with upc := 5 } = .next t ∧ t.cur = none) ∧
    (∃ t, step (atWait [high]) = .next t ∧ t.upc = 1) ∧ (∃ t, step (atWait [ok]) = .next t ∧ t.upc = 2) :=
  ⟨⟨_, rfl, rfl⟩, ⟨_, rfl, rfl⟩, ⟨_, rfl, rfl⟩⟩

/-! ### Witnesses: exceptions -/

theorem witness_ExceptionEntryIsUniform :
    (∃ t, exec .pack (running .render []) = .next t ∧ t.faults ≠ (running .render []).faults) ∧
    (∃ t, exec .powerOn (running .init [lost]) = .next t ∧ t.faults ≠ (running .init [lost]).faults) :=
  ⟨⟨_, rfl, by decide⟩, ⟨_, rfl, by decide⟩⟩

/-- One witness for each clause that can be met; that DLY, FILL, SETST, END and INITIALIZE raise nothing is the rest. -/
theorem witness_WhichInstructionRaisesWhat :
    (∃ t, exec .pack (running .render []) = .next t ∧ t.faults = [] ++ [⟨.render, .wrongDimensions 0 0⟩]) ∧
    (∃ t, exec .wait (running .sleep [lost]) = .next t ∧ t.faults = [] ++ [⟨.sleep, .transportFailure .sleep 0 .readPin⟩]) ∧
    (∃ t, exec .wait (withConfig (running .sleep [high]) { Config.standard with maxPolls := some 1 }) = .next t ∧
      t.faults = [] ++ [⟨.sleep, .timeout .sleep 0 1⟩]) ∧
    (∃ t, exec .hostRender (idle .asleep []) = .next t ∧ t.faults = [] ++ [⟨.render, .wrongState .render .asleep⟩]) ∧
    (∃ t, exec .hostClear (idle .asleep []) = .next t ∧ t.faults = [] ++ [⟨.clear, .wrongState .clear .asleep⟩]) ∧
    (∃ t, exec .hostSleep (idle .asleep []) = .next t ∧ t.faults = [] ++ [⟨.sleep, .wrongState .sleep .asleep⟩]) ∧
    (∃ t, exec (.dat 1#8) (running .init [ok, lost]) = .next t ∧
      t.faults = [] ++ [⟨.init, .transportFailure .init 0 (.txByte 1#8)⟩]) :=
  ⟨⟨_, rfl, by decide⟩, ⟨_, rfl, by decide⟩, ⟨_, rfl, by decide⟩, ⟨_, rfl, by decide⟩, ⟨_, rfl, by decide⟩,
    ⟨_, rfl, by decide⟩, ⟨_, rfl, by decide⟩⟩

theorem witness_TransportFailureFollowsFailedAction :
    (∃ t, exec (.pin .dc .low) (running .init [lost]) = .next t ∧
      t.faults = [] ++ [⟨.init, .transportFailure .init 0 (.setPin .dc .low)⟩]) ∧
    (∃ t, exec .wait (running .init [lost]) = .next t ∧ t.faults = [] ++ [⟨.init, .transportFailure .init 0 .readPin⟩]) ∧
    (∃ t, exec (.cmd 9#8) (running .init [ok, lost]) = .next t ∧
      t.faults = [] ++ [⟨.init, .transportFailure .init 0 (.txByte 9#8)⟩]) ∧
    (∃ t, exec .burst (running .clear [ok, lost]) = .next t ∧
      t.faults = [] ++ [⟨.clear, .transportFailure .clear 0 (.txBurst (running .clear [ok, lost]).fbBytes)⟩]) :=
  ⟨⟨_, rfl, by decide⟩, ⟨_, rfl, by decide⟩, ⟨_, rfl, by decide⟩, ⟨_, rfl, rfl⟩⟩

/-! ### Witnesses: what is written by what -/

theorem witness_StWrittenOnlyBySetstAndExceptions :
    (∃ t, exec (.setst .ready) (running .init []) = .next t ∧ t.st ≠ (running .init []).st) ∧
    (∃ t, exec .wait { running .sleep [lost] with st := .ready } = .next t ∧ t.st ≠ .ready) :=
  ⟨⟨_, rfl, by decide⟩, ⟨_, rfl, by decide⟩⟩

theorem witness_ResWrittenOnlyByEndAndExceptions :
    (∃ t, exec .endOp { running .sleep [] with res := .exc (.wrongState .clear .asleep) } = .next t ∧
      t.res ≠ .exc (.wrongState .clear .asleep)) ∧
    (∃ t, exec .wait (running .sleep [lost]) = .next t ∧ t.res ≠ .ok) := ⟨⟨_, rfl, by decide⟩, ⟨_, rfl, by decide⟩⟩

theorem witness_FramebufferWrittenOnlyByPackAndFill : ∃ t, exec (.cmd 1#8) (running .init [ok, ok]) = .next t ∧
    (∀ v, Instr.cmd 1#8 ≠ .fill v) ∧ Instr.cmd 1#8 ≠ .pack := ⟨_, rfl, by simp, by simp⟩

theorem witness_LatchesWrittenOnlyByTheirActions :
    (∃ t, exec (.pin .rst .low) (running .init [ok]) = .next t ∧ t.rstLatch ≠ (running .init [ok]).rstLatch) ∧
    (∃ t, exec .burst (running .clear [ok, ok]) = .next t ∧ t.dcLatch ≠ (running .clear [ok, ok]).dcLatch) :=
  ⟨⟨_, rfl, by decide⟩, ⟨_, rfl, by decide⟩⟩

theorem witness_TraceAndFaultsOnlyGrow : ∃ t, step (atWait [high]) = .next t ∧ t.trace ≠ [] := ⟨_, rfl, by decide⟩
theorem witness_ParametersAndScriptsNeverWritten : ∃ t, step (atWait [high]) = .next t := ⟨_, rfl⟩

/-- The block at SLEEP's WAIT with another past. -/
def otherPast (as : List Answer) : State :=
  { atWait as with trace := [.delay 1], dcLatch := some .high, res := .exc (.wrongState .clear .asleep) }

/-- Both step, at a busy reading and at a failed one. -/
theorem witness_HistoriesAndLatchesNeverRead :
    ((atWait [high]).erase = (otherPast [high]).erase ∧ (∃ t, step (atWait [high]) = .next t) ∧
      ∃ t, step (otherPast [high]) = .next t) ∧
    ((atWait [lost]).erase = (otherPast [lost]).erase ∧ (∃ t, step (atWait [lost]) = .next t) ∧
      ∃ t, step (otherPast [lost]) = .next t) :=
  ⟨⟨by decide, ⟨_, rfl⟩, _, rfl⟩, by decide, ⟨_, rfl⟩, _, rfl⟩

/-! ### Witnesses: invariants -/

theorem atWait_inv (as : List Answer) : (atWait as).Inv where
  idleAtZero := by intro h; cases h
  pollsOnlyInWait := by intro h; exact absurd rfl h
  fbCanonical := rfl
  fbInRange := by intro c h; cases h
  fbFull := by intro h; cases h
  selected := rfl

theorem atWait_scriptInv (as : List Answer) : (atWait as).ScriptInv where
  rom := rfl
  inScript := by intro op h; cases h; exact (by decide : 1 < (script Config.standard .sleep).length)
  fbReady := by intro h; rcases h with h | h <;> cases h
  fbPixels := by intro h; cases h
  renderReady := by intro _; rfl
  sleepState := by intro _; rfl
  initState := by intro h; cases h

/-- Both invariant statements at one step. -/
theorem witness_InvariantKeptByEveryStep : (atWait [high]).Inv ∧ ∃ t, step (atWait [high]) = .next t := ⟨atWait_inv _, _, rfl⟩

theorem witness_ScriptInvariantKeptByEveryStep : (atWait [ok]).Inv ∧ (atWait [ok]).ScriptInv ∧
    ∃ t, step (atWait [ok]) = .next t := ⟨atWait_inv _, atWait_scriptInv _, _, rfl⟩

theorem witness_BlockWithItsScriptsNeverStops : (atWait [lost]).ScriptInv := atWait_scriptInv _

theorem witness_RstDrivenOnlyByInitialize : (atWait [ok]).ScriptInv ∧ (∃ t, step (atWait [ok]) = .next t) ∧
    (atWait [ok]).cur ≠ some .init := ⟨atWait_scriptInv _, ⟨_, rfl⟩, by decide⟩

/-- The last but one step of INITIALIZE. -/
def lastOfInit : State := { running .init [] with upc := 36 }

/-- The last but one step of SLEEP. -/
def lastOfSleep : State := { running .sleep [] with st := .ready, upc := 4 }

theorem lastOfInit_scriptInv : lastOfInit.ScriptInv where
  rom := rfl
  inScript := by intro op h; cases h; decide
  fbReady := by intro h; rcases h with h | h <;> cases h
  fbPixels := by intro h; cases h
  renderReady := by intro h; rcases h with h | h <;> cases h
  sleepState := by intro h; cases h
  initState := by intro _ _; rfl

theorem lastOfSleep_scriptInv : lastOfSleep.ScriptInv where
  rom := rfl
  inScript := by intro op h; cases h; decide
  fbReady := by intro h; rcases h with h | h <;> cases h
  fbPixels := by intro h; cases h
  renderReady := by intro h; rcases h with h | h <;> cases h
  sleepState := by intro _; rfl
  initState := by intro h; cases h

theorem witness_ReadyAndAsleepEnteredOnlyAtOperationEnd :
    (lastOfInit.ScriptInv ∧ ∃ t, step lastOfInit = .next t ∧ t.st ≠ lastOfInit.st ∧ t.st = .ready) ∧
    (lastOfSleep.ScriptInv ∧ ∃ t, step lastOfSleep = .next t ∧ t.st ≠ lastOfSleep.st ∧ t.st = .asleep) :=
  ⟨⟨lastOfInit_scriptInv, _, rfl, by decide, rfl⟩, ⟨lastOfSleep_scriptInv, _, rfl, by decide, rfl⟩⟩

theorem witness_ScriptsAreWellFormed : (script Config.standard .sleep)[5]? = some .endOp := rfl

/-! ### Witnesses: waits and whole operations -/

/-- The bound used: 2 busy readings. -/
def bounded : Config := { Config.standard with maxPolls := some 2 }

theorem below_bound : ∀ m, bounded.maxPolls = some m → 1 < m := by intro m h; cases h; decide

theorem witness_WaitReturnsAfterBusyReadings :
    (withConfig (atWait [high, ok]) bounded).cur = some .sleep ∧
    fetchWord (withConfig (atWait [high, ok]) bounded) .sleep = some (.uop 0x400#12) ∧
    (withConfig (atWait [high, ok]) bounded).busyFrom 0 1 ∧ (withConfig (atWait [high, ok]) bounded).idleAt 1 ∧
    ∀ m, (withConfig (atWait [high, ok]) bounded).cfg.maxPolls = some m →
      (withConfig (atWait [high, ok]) bounded).polls + 1 < m := by
  refine ⟨rfl, rfl, ?_, ?_, below_bound⟩
  · unfold State.busyFrom; decide
  · unfold State.idleAt; decide

theorem witness_WaitTimesOutAtBound :
    (withConfig (atWait [high, high]) bounded).cur = some .sleep ∧
    fetchWord (withConfig (atWait [high, high]) bounded) .sleep = some (.uop 0x400#12) ∧
    (withConfig (atWait [high, high]) bounded).cfg.maxPolls = some 2 ∧ 1 ≤ 2 ∧
    (withConfig (atWait [high, high]) bounded).polls = 0 ∧ (withConfig (atWait [high, high]) bounded).busyFrom 0 2 := by
  refine ⟨rfl, rfl, rfl, by decide, rfl, ?_⟩
  unfold State.busyFrom; decide

theorem witness_UnboundedWaitHangs : (atWait [high, high]).cur = some .sleep ∧
    fetchWord (atWait [high, high]) .sleep = some (.uop 0x400#12) ∧ (atWait [high, high]).cfg.maxPolls = none ∧
    (atWait [high, high]).busyFrom 0 2 := by
  refine ⟨rfl, rfl, rfl, ?_⟩
  unfold State.busyFrom; decide

theorem witness_WaitReturnsWhenEventuallyIdle : (atWait [high, ok]).cur = some .sleep ∧
    fetchWord (atWait [high, ok]) .sleep = some (.uop 0x400#12) ∧ (atWait [high, ok]).cfg.maxPolls = none ∧
    (atWait [high, ok]).eventuallyIdle := by
  refine ⟨rfl, rfl, rfl, 1, ?_, ?_⟩
  · unfold State.busyFrom; decide
  · unfold State.idleAt; decide

/-- A request to run, with `pre` answers ok, one busy reading, and `post` answers ok (the first of them the idle reading). -/
def launch (st : CtrlState) (r : HostReq) (pre post : Nat) : State :=
  { withConfig (idle st [r]) bounded with answers := List.replicate pre ok ++ high :: List.replicate post ok }

theorem witness_InitializeRunsToReady :
    (launch .asleep (req .init) 25 35).romIntact ∧ (launch .asleep (req .init) 25 35).cur = none ∧
    (launch .asleep (req .init) 25 35).hostq = req .init :: [] ∧ (req .init).code = hostCode .init ∧
    initFramesBefore bounded = 11 ∧ initFramesAfter bounded = 17 ∧
    (launch .asleep (req .init) 25 35).okFrom 0 (3 + 2 * 11) ∧
    (launch .asleep (req .init) 25 35).busyFrom (3 + 2 * 11) 1 ∧ (launch .asleep (req .init) 25 35).idleAt (3 + 2 * 11 + 1) ∧
    (launch .asleep (req .init) 25 35).okFrom (4 + 2 * 11 + 1) (2 * 17) ∧
    ∀ m, (launch .asleep (req .init) 25 35).cfg.maxPolls = some m → 1 < m := by
  refine ⟨rfl, rfl, rfl, rfl, rfl, rfl, ?_, ?_, ?_, ?_, below_bound⟩
  · unfold State.okFrom; decide
  · unfold State.busyFrom; decide
  · unfold State.idleAt; decide
  · unfold State.okFrom; decide

/-- RENDER's request with a bitmap of the panel's size. -/
def renderReq : HostReq := { code := 1#2, bm := some (onePixel 0 0) }

theorem witness_RenderSendsPackedBitmap :
    (launch .ready renderReq 6 1).romIntact ∧ (launch .ready renderReq 6 1).cur = none ∧
    (launch .ready renderReq 6 1).st = .ready ∧ (launch .ready renderReq 6 1).hostq = renderReq :: [] ∧
    renderReq.code = hostCode .render ∧ (renderReq.bm.getD Bitmap.absent).width = 640 ∧
    (renderReq.bm.getD Bitmap.absent).height = 384 ∧ (launch .ready renderReq 6 1).okFrom 0 6 ∧
    (launch .ready renderReq 6 1).busyFrom 6 1 ∧ (launch .ready renderReq 6 1).idleAt (6 + 1) ∧
    ∀ m, (launch .ready renderReq 6 1).cfg.maxPolls = some m → 1 < m := by
  refine ⟨rfl, rfl, rfl, rfl, rfl, rfl, rfl, ?_, ?_, ?_, below_bound⟩
  · unfold State.okFrom; decide
  · unfold State.busyFrom; decide
  · unfold State.idleAt; decide

theorem witness_ClearSendsWhiteWhateverFramebufferHeld :
    (launch .ready (req .clear) 6 1).romIntact ∧ (launch .ready (req .clear) 6 1).cur = none ∧
    (launch .ready (req .clear) 6 1).st = .ready ∧ (launch .ready (req .clear) 6 1).hostq = req .clear :: [] ∧
    (req .clear).code = hostCode .clear ∧ (launch .ready (req .clear) 6 1).okFrom 0 6 ∧
    (launch .ready (req .clear) 6 1).busyFrom 6 1 ∧ (launch .ready (req .clear) 6 1).idleAt (6 + 1) ∧
    ∀ m, (launch .ready (req .clear) 6 1).cfg.maxPolls = some m → 1 < m := by
  refine ⟨rfl, rfl, rfl, rfl, rfl, ?_, ?_, ?_, below_bound⟩
  · unfold State.okFrom; decide
  · unfold State.busyFrom; decide
  · unfold State.idleAt; decide

theorem witness_SleepRunsToAsleep :
    (launch .ready (req .sleep) 2 5).romIntact ∧ (launch .ready (req .sleep) 2 5).cur = none ∧
    (launch .ready (req .sleep) 2 5).st = .ready ∧ (launch .ready (req .sleep) 2 5).hostq = req .sleep :: [] ∧
    (req .sleep).code = hostCode .sleep ∧ (launch .ready (req .sleep) 2 5).okFrom 0 2 ∧
    (launch .ready (req .sleep) 2 5).busyFrom 2 1 ∧ (launch .ready (req .sleep) 2 5).idleAt (2 + 1) ∧
    (launch .ready (req .sleep) 2 5).okFrom (3 + 1) 4 ∧
    ∀ m, (launch .ready (req .sleep) 2 5).cfg.maxPolls = some m → 1 < m := by
  refine ⟨rfl, rfl, rfl, rfl, rfl, ?_, ?_, ?_, ?_, below_bound⟩
  · unfold State.okFrom; decide
  · unfold State.busyFrom; decide
  · unfold State.idleAt; decide
  · unfold State.okFrom; decide

/-! ### Witnesses: encoding and packer -/

/-- Another record of distinct opcodes. -/
def otherOpcodes : Opcodes := { Opcodes.standard with panelSetting := 0x99#8 }

theorem witness_DecodeInvertsEncode : otherOpcodes.distinct = true := by decide

/-- A launch of INITIALIZE with the opcodes `K`, on an earlier trace, with one busy reading. -/
def initLaunch (K : Opcodes) : State :=
  { withConfig (idle .asleep [req .init]) { Config.standard with ops := K } with
    trace := [.delay 1], answers := List.replicate 25 ok ++ high :: List.replicate 35 ok }

/-- Its answers are the same whatever the opcodes are. -/
theorem initLaunch_answerAt (K : Opcodes) (k : Nat) :
    (initLaunch K).answerAt k = (initLaunch Opcodes.standard).answerAt k := State.answerAt_congr k _ _ rfl rfl

theorem initLaunch_launches (K : Opcodes) : (initLaunch K).InitLaunch 1 (req .init) [] where
  rom := rfl
  idle := rfl
  asked := rfl
  code := rfl
  okBefore i h := (initLaunch_answerAt K _).symm ▸
    (by decide : ∀ i, i < 25 → ((initLaunch Opcodes.standard).answerAt (0 + i)).ok = true) i h
  busy i h := (initLaunch_answerAt K _).symm ▸
    (by decide : ∀ i, i < 1 → ((initLaunch Opcodes.standard).answerAt (25 + i)).ok = true ∧
      ((initLaunch Opcodes.standard).answerAt (25 + i)).level ≠ Config.standard.idleLevel) i h
  idleRead := ⟨rfl, rfl⟩
  okAfter i h := (initLaunch_answerAt K _).symm ▸
    (by decide : ∀ i, i < 34 → ((initLaunch Opcodes.standard).answerAt (27 + i)).ok = true) i h
  bound := by intro m h; cases h

theorem witness_InitializeFramesAreElevenRegisterCommands :
    (initLaunch otherOpcodes).InitLaunch 1 (req .init) [] ∧ (initLaunch otherOpcodes).cfg.ops.distinct = true :=
  ⟨initLaunch_launches _, by decide⟩

theorem witness_InitializeDefaultFrames :
    (initLaunch Opcodes.standard).InitLaunch 1 (req .init) [] ∧ (initLaunch Opcodes.standard).cfg = Config.standard :=
  ⟨initLaunch_launches _, rfl⟩

theorem witness_EncodeInvertsDecode : decode Opcodes.standard (.uop 0x611#12) = .ok (.pin .dc .high) ∧
    decode Opcodes.standard (.frame 0x1FF#9) = .ok (.data 0xFF#8) ∧ decode Opcodes.standard (.host 0#2) = .ok .hostInitialize := by
  decide

theorem witness_ReservedWordsRefused : 10 ≤ (10#4).toNat ∧ 10 ≤ (15#4).toNat ∧ (1#8 : Byte) ≠ 0#8 ∧
    (0x02#8 : Byte) &&& 0xEE#8 ≠ 0#8 ∧ (0x04#8 : Byte) &&& 0xFC#8 ≠ 0#8 ∧ (∀ n, Opcodes.standard.byte n ≠ 0xFF#8) := by
  refine ⟨by decide, by decide, by decide, by decide, by decide, ?_⟩
  intro n; cases n <;> decide

theorem witness_PairByteFollowsThresholdTable : (63#8 : Byte).toNat < 64 ∧ 64 ≤ (64#8 : Byte).toNat ∧ (0#8 : Byte).toNat < 64 ∧
    64 ≤ (255#8 : Byte).toNat := by decide

theorem witness_PackYieldsLegalBytesOfFramebufferLength : ((onePixel 0 0).width = 640 ∧ (onePixel 0 0).height = 384) ∧
    Bitmap.absent.width ≠ 640 ∧ { onePixel 0 0 with height := 385 }.height ≠ 384 := by decide

/-- A bitmap of one luminance. -/
def uniform (l : Byte) : Bitmap := { width := 640, height := 384, ground := l, pixels := [] }

theorem witness_PackOfUniformBitmap : (uniform 64#8).width = 640 ∧ (uniform 64#8).height = 384 ∧
    (∀ x y, x < 640 → y < 384 → 64 ≤ (lum (uniform 64#8) x y).toNat) ∧
    (∀ x y, x < 640 → y < 384 → (lum (uniform 63#8) x y).toNat < 64) :=
  ⟨rfl, rfl, fun _ _ _ _ => (by decide : 64 ≤ (64#8 : Byte).toNat), fun _ _ _ _ => (by decide : (63#8 : Byte).toNat < 64)⟩

/-- At every pixel of the panel, the corners among them. -/
theorem witness_SingleBlackPixelFlipsOneNibble (x y : Nat) (hx : x < 640) (_ : y < 384) :
    (onePixel x y).width = 640 ∧ (onePixel x y).height = 384 ∧ (lum (onePixel x y) x y).toNat < 64 ∧
    (∀ x' y', x' < 640 → y' < 384 → (x', y') ≠ (x, y) → 64 ≤ (lum (onePixel x y) x' y').toNat) := by
  refine ⟨rfl, rfl, by simp [lum, onePixel, Memory.read], ?_⟩
  intro x' y' hx' hy' hne
  have : y * 640 + x ≠ y' * 640 + x' := by
    intro h
    apply hne
    have : y = y' := by omega
    subst this
    simp only [Prod.mk.injEq, and_true]; omega
  simp [lum, onePixel, Memory.read, this]

theorem witness_single_black_pixel_corners : (0 < 640 ∧ 0 < 384) ∧ 639 < 640 ∧ 383 < 384 := by decide

theorem witness_PackLoopEqualsClosedForm : 0 < fbLen ∧ 122879 < fbLen ∧ fbLen ≤ 122880 := by rw [fbLen_eq]; decide

end Sys2Proof.Tests
end

section
/-! SUPPORT. What an outcome of a script step or frame (`Ran`) writes to each piece of the state, one lemma per piece; and
that acceptance and rejection of an operation write only what R232 and R280 say. -/

namespace Sys2Proof.Machine

/-- The parameters and the script ROM stay (R37, R66). -/
theorem ran_params {op : HostOp} {s t : State} {i : Instr} (h : Ran op s i t) : t.cfg = s.cfg ∧ t.rom = s.rom := by
  cases h <;> simp

/-- The operation ends, or a busy WAIT repeats, or `upc` advances (R25). -/
theorem ran_control {op : HostOp} {s t : State} {i : Instr} (h : Ran op s i t) :
    (t.cur = none ∧ t.upc = 0) ∨
    (i = .wait ∧ t.cur = s.cur ∧ t.upc = s.upc ∧
      t.trace = s.trace ++ [.readPin (some s.cfg.busyLevel), .delay 100]) ∨
    (i ≠ .endOp ∧ t.cur = s.cur ∧ t.upc = s.upc + 1) := by
  cases h
  case sent _ _ _ _ hi =>
    have hne : i ≠ .endOp := by rintro rfl; cases hi
    exact .inr (.inr ⟨hne, rfl, rfl⟩)
  case busy => exact .inr (.inl ⟨rfl, rfl, rfl, rfl⟩)
  case ended | byteLost | selectLost | burstLost | burstSelectLost | pinLost | rejected | timedOut | readLost =>
    exact .inl ⟨rfl, rfl⟩
  case driven | burstSent | delayed | packed | filled | stateSet | idle => simp

/-- An outcome that goes on has advanced `upc` or repeats a busy WAIT. -/
theorem ran_upc_of_cur {op o : HostOp} {s t : State} {i : Instr} (h : Ran op s i t) (ht : t.cur = some o) :
    t.cur = s.cur ∧ ((i = .wait ∧ t.upc = s.upc) ∨ (i ≠ .endOp ∧ t.upc = s.upc + 1)) := by
  rcases ran_control h with ⟨hn, _⟩ | ⟨hi, hc, hu, _⟩ | ⟨hi, hc, hu⟩
  · rw [ht] at hn; cases hn
  · exact ⟨hc, .inl ⟨hi, hu⟩⟩
  · exact ⟨hc, .inr ⟨hi, hu⟩⟩

/-- `polls` is 0, or stays as it was at any step but WAIT, or counts a busy reading of a WAIT that repeats (R28, R142). -/
theorem ran_polls {op : HostOp} {s t : State} {i : Instr} (h : Ran op s i t) :
    t.polls = 0 ∨ (i ≠ .wait ∧ t.polls = s.polls) ∨ (i = .wait ∧ t.cur = s.cur ∧ t.upc = s.upc) := by
  cases h
  case sent _ _ _ _ hi =>
    have hne : i ≠ .wait := by rintro rfl; cases hi
    exact .inr (.inl ⟨hne, rfl⟩)
  case busy => exact .inr (.inr ⟨rfl, rfl, rfl⟩)
  case idle | byteLost | selectLost | burstLost | burstSelectLost | pinLost | rejected | timedOut | readLost =>
    exact .inl rfl
  case driven | burstSent | delayed | packed | filled | stateSet | ended => simp

/-- `st` stays, or SETST wrote it, or an exception reset it and ended the operation (R21, R280). -/
theorem ran_st {op : HostOp} {s t : State} {i : Instr} (h : Ran op s i t) :
    t.st = s.st ∨ i = .setst t.st ∨ (t.cur = none ∧ t.st = .uninitialized ∧ t.faults ≠ s.faults) := by
  cases h
  case stateSet c => exact .inr (.inl rfl)
  case byteLost | selectLost | burstLost | burstSelectLost | pinLost | timedOut | readLost =>
    exact .inr (.inr (by simp [Exc.resetsState]))
  case sent | burstSent | driven | delayed | packed | filled | ended | idle | busy | rejected =>
    exact .inl (by simp [Exc.resetsState])

/-- `res` stays, or END wrote OK, or an exception was recorded (R29, R280). -/
theorem ran_res {op : HostOp} {s t : State} {i : Instr} (h : Ran op s i t) :
    t.res = s.res ∨ (i = .endOp ∧ t.res = .ok) ∨
    ∃ o e, t.res = .exc e ∧ t.faults = s.faults ++ [{ op := o, exc := e }] := by
  cases h
  case ended => exact .inr (.inl ⟨rfl, rfl⟩)
  case byteLost | selectLost | burstLost | burstSelectLost | pinLost | timedOut | readLost | rejected =>
    exact .inr (.inr ⟨op, _, rfl, by simp⟩)
  case sent | burstSent | driven | delayed | packed | filled | stateSet | idle | busy => exact .inl (by simp)

/-- Records are only appended to `faults` (R289). -/
theorem ran_faults {op : HostOp} {s t : State} {i : Instr} (h : Ran op s i t) : ∃ fs, t.faults = s.faults ++ fs := by
  cases h
  case pinLost p l _ => exact ⟨[_], congrArg (· ++ _) (State.latch_faults _ p _)⟩
  case byteLost | selectLost | burstLost | burstSelectLost | timedOut | readLost | rejected => exact ⟨[_], rfl⟩
  case sent | burstSent | driven | delayed | packed | filled | stateSet | ended | idle | busy => exact ⟨[], by simp⟩

/-- FB and `fb_valid` stay, or PACK or FILL wrote all of FB and set `fb_valid` (R31, R244, R245). -/
theorem ran_fb {op : HostOp} {s t : State} {i : Instr} (h : Ran op s i t) :
    (t.fb = s.fb ∧ t.fbValid = s.fbValid) ∨
    ∃ out, t.fb = Memory.writeBytes 0 out s.fb ∧ t.fbValid = true ∧
      ((i = .pack ∧ packBitmap s.bm = some out) ∨ ∃ v, i = .fill v ∧ out = List.replicate fbLen v) := by
  cases h
  case packed out hp => exact .inr ⟨out, rfl, rfl, .inl ⟨rfl, hp⟩⟩
  case filled v => exact .inr ⟨_, rfl, rfl, .inr ⟨v, rfl, rfl⟩⟩
  case sent | burstSent | driven | delayed | stateSet | ended | idle | busy | byteLost | selectLost | burstLost
    | burstSelectLost | pinLost | timedOut | readLost | rejected => exact .inl (by simp)

/-- Only PIN RST writes `rst_latch` (R30, R240). -/
theorem ran_rstLatch {op : HostOp} {s t : State} {i : Instr} (h : Ran op s i t) :
    t.rstLatch = s.rstLatch ∨ ∃ l, i = .pin .rst l := by
  cases h
  case driven p l _ | pinLost p l _ =>
    cases p
    · exact .inr ⟨l, rfl⟩
    · exact .inl rfl
  case sent | burstSent | delayed | packed | filled | stateSet | ended | idle | busy | byteLost | selectLost | burstLost
    | burstSelectLost | timedOut | readLost | rejected => exact .inl rfl

/-- Only PIN DC, BURST and the instructions that send one byte write `dc_latch` (R30, R120). -/
theorem ran_dcLatch {op : HostOp} {s t : State} {i : Instr} (h : Ran op s i t) :
    t.dcLatch = s.dcLatch ∨ (∃ l, i = .pin .dc l) ∨ i = .burst ∨ ∃ l b, sendsByte s.cfg i = some (l, b) := by
  cases h
  case driven p l _ | pinLost p l _ =>
    cases p
    · exact .inl rfl
    · exact .inr (.inl ⟨l, rfl⟩)
  case burstSent | burstLost | burstSelectLost => exact .inr (.inr (.inl rfl))
  case sent l b _ _ hi | byteLost l b _ _ hi | selectLost l b _ hi => exact .inr (.inr (.inr ⟨l, b, hi⟩))
  case delayed | packed | filled | stateSet | ended | idle | busy | timedOut | readLost | rejected => exact .inl rfl

/-- Actions are only appended to `trace` (R35), and a byte or a burst among them stands right behind its ok `SetPin(DC)`,
whatever came before (R42 (f), R126). -/
theorem ran_trace {op : HostOp} {s t : State} {i : Instr} (h : Ran op s i t) :
    ∃ es, t.trace = s.trace ++ es ∧ ∀ prev, selectedFrom s.cfg prev es = true := by
  cases h
  case packed | filled | stateSet | ended | rejected => exact ⟨[], by simp, fun _ => rfl⟩
  case driven p _ _ | pinLost p _ _ => exact ⟨[_], State.latch_trace _ p _, fun _ => rfl⟩
  case burstSent | burstLost => exact ⟨[_, _], rfl, fun _ => by simp [selectedFrom]⟩
  case delayed | idle | timedOut | readLost | selectLost | burstSelectLost => exact ⟨[_], rfl, fun _ => rfl⟩
  case sent | byteLost | busy => exact ⟨[_, _], rfl, fun _ => rfl⟩

end Sys2Proof.Machine
end

section
/-! PROOFS. What a step runs, and what each piece of state is written by (spec/10_state.md). -/

namespace Sys2Proof.Machine

/-- Settles O18: fetching and decoding are the two equations of the hypotheses. -/
theorem stepRunsScriptWordAtUpc : Obligations.StepRunsScriptWordAtUpc := by
  intro op w i s hc hw hd
  have hf : fetchWord s op = some w := hw
  simp only [step, hc, stepScript, hf, execWord, hd]

/-- Settles O19: the code of a request decodes to the operation it names. -/
theorem idleStepRunsOldestRequest : Obligations.IdleStepRunsOldestRequest := by
  intro s hc
  constructor
  · intro op r rest hq hr
    simp only [step, hc, stepIdle, hq, execWord, decode, hr, decodeHost_hostCode, takeRequest]
  · intro hq
    simp only [step, hc, stepIdle, hq]

/-- Settles O20: the three ways of `ran_control`; an instruction that repeats is WAIT, which only one word decodes to. -/
theorem upcAdvancesRepeatsOrEnds : Obligations.UpcAdvancesRepeatsOrEnds := by
  intro op s t hc h
  rcases step_cases h with ⟨o, w, i, ho, hw, hd, hr⟩ | ⟨hn, _⟩ | ⟨_, _, _, hn, _⟩
  · obtain rfl : op = o := by rw [hc] at ho; exact Option.some.inj ho
    rcases ran_control hr with hend | ⟨rfl, hcur, hupc, htr⟩ | ⟨_, hcur, hupc⟩
    · exact .inl hend
    · exact .inr (.inl ⟨hcur.trans hc, hupc, hw.trans (congrArg some (decode_wait hd)), htr⟩)
    · exact .inr (.inr ⟨hcur.trans hc, hupc⟩)
  · rw [hc] at hn; cases hn
  · rw [hc] at hn; cases hn

/-- Settles O24: acceptance and rejection leave `st`; of the outcomes of a step `ran_st` says it. -/
theorem stWrittenOnlyBySetstAndExceptions : Obligations.StWrittenOnlyBySetstAndExceptions := by
  intro i s t h hne
  rcases exec_ran h with ⟨op, _, _, ⟨_, rfl⟩ | ⟨_, rfl⟩⟩ | ⟨op, _, hr⟩
  · exact absurd rfl hne
  · exact absurd rfl hne
  · rcases ran_st hr with hst | hi | ⟨_, hst, hf⟩
    · exact absurd hst hne
    · exact .inl hi
    · exact .inr ⟨hst, hf⟩

/-- Settles O25: a rejection records WrongState; of the outcomes of a step `ran_res` says it. -/
theorem resWrittenOnlyByEndAndExceptions : Obligations.ResWrittenOnlyByEndAndExceptions := by
  intro i s t h hne
  rcases exec_ran h with ⟨op, _, _, ⟨_, rfl⟩ | ⟨_, rfl⟩⟩ | ⟨op, _, hr⟩
  · exact absurd rfl hne
  · exact .inr ⟨op, _, rfl, rfl⟩
  · exact (ran_res hr).resolve_left hne

/-- Settles O26: acceptance and rejection leave FB; of the outcomes of a step `ran_fb` says it. -/
theorem framebufferWrittenOnlyByPackAndFill : Obligations.FramebufferWrittenOnlyByPackAndFill := by
  intro i s t h hfill hpack
  have hfb : t.fb = s.fb ∧ t.fbValid = s.fbValid := by
    rcases exec_ran h with ⟨op, _, _, ⟨_, rfl⟩ | ⟨_, rfl⟩⟩ | ⟨op, _, hr⟩
    · exact ⟨rfl, rfl⟩
    · exact ⟨rfl, rfl⟩
    · rcases ran_fb hr with hsame | ⟨_, _, _, ⟨hi, _⟩ | ⟨v, hi, _⟩⟩
      · exact hsame
      · exact absurd hi hpack
      · exact absurd hi (hfill v)
  exact ⟨hfb.1, hfb.2, fun a => by rw [hfb.1]⟩

/-- Settles O27: acceptance and rejection leave both latches; of the outcomes of a step `ran_rstLatch` and `ran_dcLatch` say
it, and `sendsByte_some` lists the instructions that send one byte. -/
theorem latchesWrittenOnlyByTheirActions : Obligations.LatchesWrittenOnlyByTheirActions := by
  intro i s t h
  rcases exec_ran h with ⟨op, _, _, ⟨_, rfl⟩ | ⟨_, rfl⟩⟩ | ⟨op, _, hr⟩
  · exact ⟨fun hne => absurd rfl hne, fun hne => absurd rfl hne⟩
  · exact ⟨fun hne => absurd rfl hne, fun hne => absurd rfl hne⟩
  · refine ⟨(ran_rstLatch hr).resolve_left, fun hne => ?_⟩
    rcases (ran_dcLatch hr).resolve_left hne with hpin | hburst | ⟨l, b, hb⟩
    · exact .inl hpin
    · simp [hburst]
    · rcases sendsByte_some hb with ⟨_, rfl | ⟨n, rfl, _⟩⟩ | ⟨_, rfl | rfl⟩ <;> simp

/-- Settles O28: the host's moves append at most one record; of the outcomes of a step `ran_trace` and `ran_faults` say
it. -/
theorem traceAndFaultsOnlyGrow : Obligations.TraceAndFaultsOnlyGrow := by
  intro s t h
  rcases step_cases h with ⟨op, w, i, _, _, _, hr⟩ | ⟨_, _, rfl⟩ | ⟨op, r, rest, _, _, _, ⟨_, rfl⟩ | ⟨_, rfl⟩⟩
  · obtain ⟨es, hes, _⟩ := ran_trace hr
    exact ⟨⟨es, hes⟩, ran_faults hr⟩
  · exact ⟨⟨[], by simp⟩, ⟨[], by simp⟩⟩
  · exact ⟨⟨[], by simp⟩, ⟨[], by simp⟩⟩
  · exact ⟨⟨[], by simp⟩, ⟨[_], rfl⟩⟩

/-- Settles O29: no outcome of a step and no move of the host writes them. -/
theorem parametersAndScriptsNeverWritten : Obligations.ParametersAndScriptsNeverWritten := by
  intro s t h
  rcases step_cases h with ⟨op, w, i, _, _, _, hr⟩ | ⟨_, _, rfl⟩ | ⟨op, r, rest, _, _, _, ⟨_, rfl⟩ | ⟨_, rfl⟩⟩
  · exact ran_params hr
  · exact ⟨rfl, rfl⟩
  · exact ⟨rfl, rfl⟩
  · exact ⟨rfl, rfl⟩

/-- Settles O13: what actions add is their walk from the selection the trace leaves (`framesOf_append`); each walk here is a
few actions long. -/
theorem framerActionsAddTheirFrames : Obligations.FramerActionsAddTheirFrames := by
  intro c got tr b bs k p l ok r ms
  simp only [framesOf_append, List.append_cancel_left_eq]
  simp [commandEvents, dataEvents, burstEvents, framesOf, framesFrom, eventFrames]

end Sys2Proof.Machine
end

section
/-! PROOFS. The machine's invariant: what a full write does to FB, what appended actions do to R42 (f), and that every step
keeps `State.Inv`, whatever the script ROM holds. -/

namespace Sys2Proof.Machine

/-! ### FB written in full -/

/-- PACK writes FB_LEN bytes (R206, R207). -/
theorem packBitmap_length {bm : Bitmap} {out : List Byte} (h : packBitmap bm = some out) : out.length = fbLen := by
  unfold packBitmap at h
  split at h
  · cases h; simp
  · cases h

/-- A step leaves FB and `fb_valid`, or writes FB_LEN bytes from index 0 and sets `fb_valid`. -/
theorem ran_fb_full {op : HostOp} {s t : State} {i : Instr} (h : Ran op s i t) :
    (t.fb = s.fb ∧ t.fbValid = s.fbValid) ∨
    ∃ out, out.length = fbLen ∧ t.fb = Memory.writeBytes 0 out s.fb ∧ t.fbValid = true := by
  rcases ran_fb h with hsame | ⟨out, hfb, hv, ⟨_, hp⟩ | ⟨v, _, rfl⟩⟩
  · exact .inl hsame
  · exact .inr ⟨out, packBitmap_length hp, hfb, hv⟩
  · exact .inr ⟨_, List.length_replicate, hfb, hv⟩

/-- Bytes written within FB_LEN keep every address below it (R52). -/
theorem fbInRange_writeBytes {m : Memory} {out : List Byte} (hl : out.length = fbLen) (h : ∀ c, c ∈ m → c.1 < fbLen) :
    ∀ c, c ∈ Memory.writeBytes 0 out m → c.1 < fbLen := by
  intro c hc
  rcases Memory.mem_writeBytes out 0 m c hc with ⟨_, hlt, _⟩ | ⟨hold, _⟩
  · omega
  · exact h c hold

/-- After FB_LEN bytes are written every index holds a byte (R31). -/
theorem fbFull_writeBytes (m : Memory) {out : List Byte} (hl : out.length = fbLen) (i : Nat) (hi : i < fbLen) :
    (Memory.read (Memory.writeBytes 0 out m) i).isSome = true := by
  rw [Memory.read_writeBytes_eq, if_pos (by omega)]
  simpa using (by omega : i < out.length)

/-! ### Actions appended to the trace -/

/-- A trace with every byte selected keeps R42 (f) when actions are appended that keep it behind any action. -/
theorem selectedFrom_append {c : Config} {prev : Option Event} {tr es : List Event} (h : selectedFrom c prev tr = true)
    (hes : ∀ p, selectedFrom c p es = true) : selectedFrom c prev (tr ++ es) = true := by
  induction tr generalizing prev with
  | nil => exact hes prev
  | cons e tr ih =>
    simp only [selectedFrom, List.cons_append, Bool.and_eq_true] at h ⊢
    exact ⟨h.1, ih h.2⟩

/-! ### The invariant -/

/-- `polls` is 0 at every step but WAIT (R28): elsewhere the word at `upc` is not WAIT's. -/
theorem State.Inv.polls_eq_zero {s : State} (hs : s.Inv) {op : HostOp} {w : CodeWord} {i : Instr} (hc : s.cur = some op)
    (hw : fetchWord s op = some w) (hd : decode s.cfg.ops w = .ok i) (hi : i ≠ .wait) : s.polls = 0 := by
  by_contra hp
  obtain ⟨o, ho, hf⟩ := hs.pollsOnlyInWait hp
  obtain rfl : op = o := Option.some.inj (hc.symm.trans ho)
  obtain rfl : w = .uop 0x400#12 := Option.some.inj (hw.symm.trans hf)
  exact hi (Except.ok.inj (hd.symm.trans rfl))

/-- The invariant passes on to a state with `upc` and `polls` 0 and with the same FB, `trace` and configuration. -/
theorem State.Inv.of_zero {s t : State} (hs : s.Inv) (hu : t.upc = 0) (hp : t.polls = 0) (hfb : t.fb = s.fb)
    (hv : t.fbValid = s.fbValid) (hcfg : t.cfg = s.cfg) (htr : t.trace = s.trace) : t.Inv where
  idleAtZero _ := ⟨hu, hp⟩
  pollsOnlyInWait hne := absurd hp hne
  fbCanonical := hfb ▸ hs.fbCanonical
  fbInRange := hfb ▸ hs.fbInRange
  fbFull := by rw [hfb, hv]; exact hs.fbFull
  selected := by rw [hcfg, htr]; exact hs.selected

/-- Every outcome of the step at `upc` keeps the invariant. -/
theorem State.Inv.ran {s t : State} (hs : s.Inv) {op : HostOp} {w : CodeWord} {i : Instr} (hc : s.cur = some op)
    (hw : fetchWord s op = some w) (hd : decode s.cfg.ops w = .ok i) (hr : Ran op s i t) : t.Inv := by
  obtain ⟨hcfg, hrom⟩ := ran_params hr
  have hpolls : t.polls = 0 ∨ (i = .wait ∧ t.cur = s.cur ∧ t.upc = s.upc) := by
    rcases ran_polls hr with h0 | ⟨hi, hp⟩ | hbusy
    · exact .inl h0
    · exact .inl (hp.trans (hs.polls_eq_zero hc hw hd hi))
    · exact .inr hbusy
  obtain ⟨es, htr, hes⟩ := ran_trace hr
  constructor
  case idleAtZero =>
    intro hn
    refine ⟨?_, hpolls.resolve_right fun ⟨_, hcur, _⟩ => ?_⟩
    · rcases ran_control hr with ⟨_, hu⟩ | ⟨_, hcur, _⟩ | ⟨_, hcur, _⟩
      · exact hu
      all_goals rw [hn, hc] at hcur; cases hcur
    · rw [hn, hc] at hcur; cases hcur
  case pollsOnlyInWait =>
    intro hne
    obtain ⟨rfl, hcur, hupc⟩ := hpolls.resolve_left hne
    refine ⟨op, hcur.trans hc, ?_⟩
    rw [fetchWord, hrom, hupc, ← decode_wait hd]
    exact hw
  case fbCanonical =>
    rcases ran_fb_full hr with ⟨hfb, _⟩ | ⟨out, _, hfb, _⟩
    · exact hfb ▸ hs.fbCanonical
    · exact hfb ▸ Memory.wf_writeBytes out 0 s.fb hs.fbCanonical
  case fbInRange =>
    rcases ran_fb_full hr with ⟨hfb, _⟩ | ⟨out, hl, hfb, _⟩
    · exact hfb ▸ hs.fbInRange
    · exact hfb ▸ fbInRange_writeBytes hl hs.fbInRange
  case fbFull =>
    rcases ran_fb_full hr with ⟨hfb, hv⟩ | ⟨out, hl, hfb, _⟩
    · rw [hfb, hv]; exact hs.fbFull
    · intro _; exact hfb ▸ fbFull_writeBytes s.fb hl
  case selected =>
    rw [hcfg, htr]
    exact selectedFrom_append hs.selected hes

/-- Settles O32: the host's moves leave FB and `trace` and set `upc` and `polls` to 0; the step at `upc` is `Inv.ran`. -/
theorem invariantKeptByEveryStep : Obligations.InvariantKeptByEveryStep := by
  intro s t hs h
  rcases step_cases h with ⟨op, w, i, hc, hw, hd, hr⟩ | ⟨_, _, rfl⟩ | ⟨op, r, rest, _, _, _, ⟨_, rfl⟩ | ⟨_, rfl⟩⟩
  · exact hs.ran hc hw hd hr
  · exact hs
  · exact hs.of_zero rfl rfl rfl rfl rfl rfl
  · exact hs.of_zero rfl rfl rfl rfl rfl rfl

end Sys2Proof.Machine
end

section
/-! SUPPORT. Where each step of a script stands (spec R233 to R236), and that the words of a script decode to its steps. -/

namespace Sys2Proof.Machine

/-! ### The parts of a script -/

/-- The script steps that only drive, send, read or delay: they write neither `st` nor FB and do not end the operation. -/
def transportStep : Instr → Bool
  | .cmd _ | .dat _ | .burst | .wait => true
  | .dly n => n == 100#8 || n == 200#8
  | .pin p _ => p == .rst
  | _ => false

theorem scriptStep_of_transportStep {i : Instr} (h : transportStep i = true) : i.scriptStep = true := by
  cases i
  case cmd | dat | burst | wait => rfl
  case dly | pin => exact h
  all_goals cases h

/-- What a script begins with before its transport steps (R233 to R236). -/
def scriptHead : HostOp → List Instr
  | .init => [.setst .uninitialized]
  | .render => [.pack]
  | .clear => [.fill whiteByte]
  | .sleep => []

/-- The transport steps of a script (R233 to R236). -/
def scriptBody (c : Config) : HostOp → List Instr
  | .init => resetPulse ++ initBody c
  | .render | .clear => sendFrameAndRefresh c
  | .sleep => reg c.ops.powerOff [] ++ [.wait] ++ reg c.ops.deepSleep [c.pay.deepSleep]

/-- What a script ends with after its transport steps (R233 to R236, R249). -/
def scriptTail : HostOp → List Instr
  | .init => [.setst .ready, .endOp]
  | .render | .clear => [.endOp]
  | .sleep => [.setst .asleep, .endOp]

theorem script_eq (c : Config) (op : HostOp) : script c op = scriptHead op ++ (scriptBody c op ++ scriptTail op) := by
  cases op <;> simp [script, scriptHead, scriptBody, scriptTail]

theorem script_length (c : Config) (op : HostOp) :
    (script c op).length = (scriptHead op).length + ((scriptBody c op).length + (scriptTail op).length) := by
  rw [script_eq, List.length_append, List.length_append]

/-- The steps of a register command are CMD and DAT (R101). -/
theorem transportStep_of_mem_reg {op : Byte} {p : List Byte} {i : Instr} (h : i ∈ reg op p) : transportStep i = true := by
  rcases List.mem_cons.mp h with rfl | h
  · rfl
  · obtain ⟨b, _, rfl⟩ := List.mem_map.mp h
    rfl

theorem transportStep_of_mem_scriptBody {c : Config} {op : HostOp} {i : Instr} (h : i ∈ scriptBody c op) :
    transportStep i = true := by
  have hpulse : ∀ i ∈ resetPulse, transportStep i = true := by decide
  have hwait : ∀ i ∈ [Instr.wait], transportStep i = true := by decide
  have hrefresh : ∀ i ∈ sendFrameAndRefresh c, transportStep i = true := by
    simp [sendFrameAndRefresh, transportStep, settleMs]
  have hreg : ∀ op p, ∀ i ∈ reg op p, transportStep i = true := fun _ _ _ => transportStep_of_mem_reg
  cases op
  case render | clear => exact hrefresh i h
  case init | sleep =>
    simp only [scriptBody, initBody, List.mem_append] at h
    grind

/-- What stands at place `n` of the script of `op`. -/
inductive ScriptAt (c : Config) : HostOp → Nat → Instr → Prop
  | initStart : ScriptAt c .init 0 (.setst .uninitialized)
  | renderStart : ScriptAt c .render 0 .pack
  | clearStart : ScriptAt c .clear 0 (.fill whiteByte)
  | body (op : HostOp) (n : Nat) (i : Instr) (hi : i ∈ scriptBody c op) (hlo : (scriptHead op).length ≤ n)
      (hhi : n + (scriptTail op).length < (script c op).length) : ScriptAt c op n i
  | initReady (n : Nat) (hn : n + 2 = (script c .init).length) : ScriptAt c .init n (.setst .ready)
  | sleepAsleep (n : Nat) (hn : n + 2 = (script c .sleep).length) : ScriptAt c .sleep n (.setst .asleep)
  | ended (op : HostOp) (n : Nat) (hn : n + 1 = (script c op).length) : ScriptAt c op n .endOp

theorem scriptAt_of_scriptHead {c : Config} {op : HostOp} {n : Nat} {i : Instr} (h : (scriptHead op)[n]? = some i) :
    ScriptAt c op n i := by
  cases op
  case sleep => simp [scriptHead] at h
  all_goals
    cases n
    · cases h; constructor
    · simp [scriptHead] at h

theorem scriptAt_of_scriptTail {c : Config} {op : HostOp} {k n : Nat} {i : Instr} (h : (scriptTail op)[k]? = some i)
    (hn : n + (scriptTail op).length = (script c op).length + k) : ScriptAt c op n i := by
  rcases k with _ | _ | k
  · cases op <;> cases h
    · exact .initReady n hn
    · exact .ended .render n hn
    · exact .ended .clear n hn
    · exact .sleepAsleep n hn
  · cases op <;> cases h
    · exact .ended .init n (by simpa [scriptTail] using hn)
    · exact .ended .sleep n (by simpa [scriptTail] using hn)
  · cases op <;> simp [scriptTail] at h

/-- Every step of a script is where `ScriptAt` says. -/
theorem scriptAt_of_getElem? {c : Config} {op : HostOp} {n : Nat} {i : Instr} (h : (script c op)[n]? = some i) :
    ScriptAt c op n i := by
  have hlen := script_length c op
  have hlt : n < (script c op).length := (List.getElem?_eq_some_iff.mp h).1
  rw [script_eq] at h
  by_cases hhead : n < (scriptHead op).length
  · rw [List.getElem?_append_left hhead] at h
    exact scriptAt_of_scriptHead h
  · rw [List.getElem?_append_right (by omega)] at h
    by_cases hbody : n - (scriptHead op).length < (scriptBody c op).length
    · rw [List.getElem?_append_left hbody] at h
      exact .body op n i (List.mem_of_getElem? h) (by omega) (by omega)
    · rw [List.getElem?_append_right (by omega)] at h
      exact scriptAt_of_scriptTail h (by omega)

/-- A step of a script is one a script may hold (R33, R91, R249). -/
theorem ScriptAt.scriptStep {c : Config} {op : HostOp} {n : Nat} {i : Instr} (h : ScriptAt c op n i) :
    i.scriptStep = true := by
  cases h
  case body _ _ hi => exact scriptStep_of_transportStep (transportStep_of_mem_scriptBody hi)
  case initStart | renderStart | clearStart | initReady | sleepAsleep | ended => rfl

/-- No script holds a host operation (R87, R90). -/
theorem ne_ofHostOp_of_scriptStep {i : Instr} (h : i.scriptStep = true) (op : HostOp) : i ≠ .ofHostOp op := by
  rintro rfl
  cases op <;> cases h

/-! ### The words of a script -/

/-- The word of a step that a script may hold decodes to that step (R90). -/
theorem decode_encode_scriptStep (K : Opcodes) {i : Instr} (h : i.scriptStep = true) : decode K (encode K i) = .ok i := by
  cases i
  case pin p l => cases p <;> cases l <;> rfl
  case setst x => cases x <;> rfl
  case cmd a | dat a | dly a | fill a => exact decodeUop_append _ a
  case endOp | burst | wait | pack => rfl
  all_goals cases h

/-- The words of an operation in the ROM of a configuration. -/
theorem ofConfig_words (c : Config) (op : HostOp) : (Rom.ofConfig c).words op = (script c op).map (encode c.ops) := by
  cases op <;> rfl

/-- With its own scripts the word fetched at `upc` is that of the script's step (R25, R66). -/
theorem fetchWord_of_romIntact {s : State} (h : s.romIntact) (op : HostOp) :
    fetchWord s op = (script s.cfg op)[s.upc]?.map (encode s.cfg.ops) := by
  rw [fetchWord, h, ofConfig_words, List.getElem?_map]

/-- With its own scripts the word at `upc` decodes to the instruction of the script there. -/
theorem scriptAt_of_fetchWord {s : State} (h : s.romIntact) {op : HostOp} {w : CodeWord} {i : Instr}
    (hw : fetchWord s op = some w) (hd : decode s.cfg.ops w = .ok i) : ScriptAt s.cfg op s.upc i := by
  rw [fetchWord_of_romIntact h] at hw
  obtain ⟨j, hj, rfl⟩ := Option.map_eq_some_iff.mp hw
  have hat := scriptAt_of_getElem? hj
  rw [decode_encode_scriptStep _ hat.scriptStep] at hd
  cases hd
  exact hat

end Sys2Proof.Machine
end

section
/-! PROOFS. The block with its own scripts: what each step of a script expects of `st`, that FB holds legal pixel codes, that
every step keeps `State.ScriptInv`, and that the block never stops. -/

namespace Sys2Proof.Machine

/-! ### `st` along a script -/

/-- The ControllerState in which the script of `op` stands at place `n`; for INITIALIZE, from its second step on (R233 to
R237). -/
def scriptSt (c : Config) (op : HostOp) (n : Nat) : CtrlState :=
  match op with
  | .init => if n + 1 < (script c .init).length then .uninitialized else .ready
  | .render | .clear => .ready
  | .sleep => if n + 1 < (script c .sleep).length then .ready else .asleep

theorem State.ScriptInv.st_eq {s : State} (hs : s.ScriptInv) {op : HostOp} (hc : s.cur = some op)
    (h0 : op = .init → 0 < s.upc) : s.st = scriptSt s.cfg op s.upc := by
  cases op
  · exact hs.initState hc (h0 rfl)
  · exact hs.renderReady (.inl hc)
  · exact hs.renderReady (.inr hc)
  · exact hs.sleepState hc

/-- The clauses on `st` of the script invariant follow from `scriptSt`. -/
theorem State.ScriptInv.of_st {s : State} (rom : s.romIntact)
    (inScript : ∀ op, s.cur = some op → s.upc < (script s.cfg op).length)
    (fbReady : s.cur = some .render ∨ s.cur = some .clear → 0 < s.upc → s.fbValid = true)
    (fbPixels : s.fbValid = true → ∀ c, c ∈ s.fb → legalByte c.2 = true)
    (st : ∀ op, s.cur = some op → (op = .init → 0 < s.upc) → s.st = scriptSt s.cfg op s.upc) : s.ScriptInv where
  rom := rom
  inScript := inScript
  fbReady := fbReady
  fbPixels := fbPixels
  renderReady h := h.elim (fun h => st .render h (by simp)) fun h => st .clear h (by simp)
  sleepState h := st .sleep h (by simp)
  initState h h0 := st .init h fun _ => h0

/-- An Idle block meets the script invariant as soon as its ROM and FB do. -/
theorem State.ScriptInv.of_idle {s : State} (hc : s.cur = none) (rom : s.romIntact)
    (fbPixels : s.fbValid = true → ∀ c, c ∈ s.fb → legalByte c.2 = true) : s.ScriptInv :=
  .of_st rom (by simp [hc]) (by simp [hc]) fbPixels (by simp [hc])

/-- From one step of a script to the next, `scriptSt` changes as SETST says and nowhere else. -/
theorem ScriptAt.scriptSt_succ {c : Config} {op : HostOp} {n : Nat} {i : Instr} (h : ScriptAt c op n i) (hi : i ≠ .endOp) :
    i = .setst (scriptSt c op (n + 1)) ∨
    ((op = .init → 0 < n) ∧ (∀ x, i ≠ .setst x) ∧ scriptSt c op (n + 1) = scriptSt c op n) := by
  cases h
  case initStart =>
    have : 0 + 1 + 1 < (script c .init).length := by
      simp only [script_length, scriptHead, scriptTail, List.length_cons]; omega
    exact .inl (by rw [scriptSt, if_pos this])
  case initReady hn => exact .inl (by rw [scriptSt, if_neg (by omega)])
  case sleepAsleep hn => exact .inl (by rw [scriptSt, if_neg (by omega)])
  case renderStart | clearStart => exact .inr (by simp [scriptSt])
  case ended => exact absurd rfl hi
  case body hlo hhi hmem =>
    have hne : ∀ x, i ≠ .setst x := by rintro x rfl; cases transportStep_of_mem_scriptBody hmem
    refine .inr ⟨by rintro rfl; exact hlo, hne, ?_⟩
    cases op
    case render | clear => rfl
    case init | sleep =>
      replace hhi : n + 2 < _ := hhi
      rw [scriptSt, scriptSt, if_pos (by omega), if_pos (by omega)]

/-- The last step of a script is END (R249). -/
theorem ScriptAt.succ_lt_length {c : Config} {op : HostOp} {n : Nat} {i : Instr} (h : ScriptAt c op n i)
    (hi : i ≠ .endOp) : n + 1 < (script c op).length := by
  have hlen := script_length c op
  cases h
  case ended => exact absurd rfl hi
  case initReady hn | sleepAsleep hn => omega
  case initStart | renderStart | clearStart => simp only [scriptHead, scriptTail, List.length_cons] at hlen; omega
  case body hhi _ =>
    have : 0 < (scriptTail op).length := by cases op <;> decide
    omega

/-- Where the scripts set `st`: at the first step of INITIALIZE and at the last but one of INITIALIZE and SLEEP (R233,
R236). -/
theorem ScriptAt.setst_place {c : Config} {op : HostOp} {n : Nat} {x : CtrlState} (h : ScriptAt c op n (.setst x)) :
    (op = .init ∧ n = 0 ∧ x = .uninitialized) ∨ (op = .init ∧ n + 2 = (script c .init).length ∧ x = .ready) ∨
    (op = .sleep ∧ n + 2 = (script c .sleep).length ∧ x = .asleep) := by
  cases h
  case initStart => exact .inl ⟨rfl, rfl, rfl⟩
  case initReady hn => exact .inr (.inl ⟨rfl, hn, rfl⟩)
  case sleepAsleep hn => exact .inr (.inr ⟨rfl, hn, rfl⟩)
  case body hi => cases transportStep_of_mem_scriptBody hi

/-- RENDER begins with PACK and CLEAR with FILL WHITE_BYTE (R234, R235). -/
theorem ScriptAt.start_writes_fb {c : Config} {op : HostOp} {i : Instr} (h : ScriptAt c op 0 i)
    (hop : op = .render ∨ op = .clear) : i = .pack ∨ i = .fill whiteByte := by
  have hlen := script_length c op
  cases h
  case renderStart => exact .inl rfl
  case clearStart => exact .inr rfl
  case initStart | initReady | sleepAsleep => simp at hop
  case body hlo _ _ => rcases hop with rfl | rfl <;> simp [scriptHead] at hlo
  case ended hn => rcases hop with rfl | rfl <;> simp [scriptHead, scriptTail] at hlen <;> omega

/-- The scripts fill FB with WHITE_BYTE only (R235). -/
theorem ScriptAt.fill_eq {c : Config} {op : HostOp} {n : Nat} {v : Byte} (h : ScriptAt c op n (.fill v)) : v = whiteByte := by
  cases h
  case clearStart => rfl
  case body hi => cases transportStep_of_mem_scriptBody hi

/-! ### Legal pixel codes in FB -/

theorem legalNibble_nibbleCode (l : Byte) : legalNibble (nibbleCode l) = true := by
  unfold nibbleCode
  split <;> decide

/-- The packer's bytes are legal (R85, R204). -/
theorem legalByte_pairByte (lL lR : Byte) : legalByte (pairByte lL lR) = true := by
  have hhigh : highNibble (pairByte lL lR) = nibbleCode lL := extract_append_high _ _
  have hlow : lowNibble (pairByte lL lR) = nibbleCode lR := extract_append_low _ _
  rw [legalByte, hhigh, hlow, legalNibble_nibbleCode, legalNibble_nibbleCode]
  rfl

theorem legalByte_of_mem_packBitmap {bm : Bitmap} {out : List Byte} (h : packBitmap bm = some out) {b : Byte}
    (hb : b ∈ out) : legalByte b = true := by
  unfold packBitmap at h
  split at h
  · cases h
    obtain ⟨k, _, rfl⟩ := List.mem_map.mp hb
    exact legalByte_pairByte _ _
  · cases h

/-- What a script writes to FB is legal. -/
theorem ScriptAt.fb_legal {s t : State} {op : HostOp} {n : Nat} {i : Instr} (hat : ScriptAt s.cfg op n i) (hr : Ran op s i t)
    (hrange : ∀ c, c ∈ s.fb → c.1 < fbLen) (hs : s.fbValid = true → ∀ c, c ∈ s.fb → legalByte c.2 = true)
    (hv : t.fbValid = true) : ∀ c, c ∈ t.fb → legalByte c.2 = true := by
  rcases ran_fb hr with ⟨hfb, hvalid⟩ | ⟨out, hfb, _, hout⟩
  · rw [hfb]; exact hs (hvalid ▸ hv)
  · have hwritten : out.length = fbLen ∧ ∀ b, b ∈ out → legalByte b = true := by
      rcases hout with ⟨_, hp⟩ | ⟨v, rfl, rfl⟩
      · exact ⟨packBitmap_length hp, fun _ => legalByte_of_mem_packBitmap hp⟩
      · obtain rfl := hat.fill_eq
        exact ⟨List.length_replicate, fun b hb => List.eq_of_mem_replicate hb ▸ by decide⟩
    obtain ⟨hlen, hlegal⟩ := hwritten
    intro c hc
    rcases Memory.mem_writeBytes out 0 s.fb c (hfb ▸ hc) with ⟨_, _, hin⟩ | ⟨hold, hout⟩
    · exact hlegal _ hin
    · have := hrange c hold
      omega

/-- A step leaves `fb_valid` set, and a PACK or FILL that does not end the operation sets it. -/
theorem ran_fbValid {op : HostOp} {s t : State} {i : Instr} (h : Ran op s i t) (hc : t.cur ≠ none)
    (hv : s.fbValid = true ∨ i = .pack ∨ i = .fill whiteByte) : t.fbValid = true := by
  rcases hv with hv | rfl | rfl
  · rcases ran_fb h with ⟨_, hsame⟩ | ⟨_, _, hset, _⟩
    · exact hsame.trans hv
    · exact hset
  · cases h
    case packed => rfl
    case rejected => exact absurd rfl hc
    case sent hi | byteLost hi | selectLost hi => cases hi
  · cases h
    case filled => rfl
    case sent hi | byteLost hi | selectLost hi => cases hi

/-! ### The script invariant -/

/-- A step of a script leaves `st` where the script's next step expects it. -/
theorem State.ScriptInv.ran_st_eq {s t : State} (hs : s.ScriptInv) {op : HostOp} {i : Instr} (hc : s.cur = some op)
    (hat : ScriptAt s.cfg op s.upc i) (hr : Ran op s i t) (ht : t.cur = some op) (h0 : op = .init → 0 < t.upc) :
    t.st = scriptSt s.cfg op t.upc := by
  have hst : t.st = s.st ∨ i = .setst t.st := by
    rcases ran_st hr with h | h | ⟨hn, _⟩
    · exact .inl h
    · exact .inr h
    · rw [ht] at hn; cases hn
  rcases (ran_upc_of_cur hr ht).2 with ⟨rfl, hu⟩ | ⟨hi, hu⟩
  · rw [hu] at h0 ⊢
    rcases hst with h | h
    · exact h.trans (hs.st_eq hc h0)
    · cases h
  · rw [hu]
    rcases hat.scriptSt_succ hi with hset | ⟨h0', hne, hsame⟩
    · subst hset
      cases hr
      case stateSet => rfl
      case sent hi | byteLost hi | selectLost hi => cases hi
    · rw [hsame]
      exact (hst.resolve_right (hne _)).trans (hs.st_eq hc h0')

/-- Every outcome of a script's step keeps the script invariant. -/
theorem State.ScriptInv.ran {s t : State} (hinv : s.Inv) (hs : s.ScriptInv) {op : HostOp} {i : Instr} (hc : s.cur = some op)
    (hat : ScriptAt s.cfg op s.upc i) (hr : Ran op s i t) : t.ScriptInv := by
  obtain ⟨hcfg, hrom⟩ := ran_params hr
  have hromIntact : t.romIntact := by rw [State.romIntact, hcfg, hrom]; exact hs.rom
  have hpix := hat.fb_legal hr hinv.fbInRange hs.fbPixels
  cases ht : t.cur with
  | none => exact .of_idle ht hromIntact hpix
  | some o =>
    obtain ⟨hcur, hupc⟩ := ran_upc_of_cur hr ht
    obtain rfl : op = o := by rw [ht, hc] at hcur; exact (Option.some.inj hcur).symm
    refine .of_st hromIntact ?_ ?_ hpix ?_
    · intro o ho
      obtain rfl : op = o := Option.some.inj (ht.symm.trans ho)
      rw [hcfg]
      rcases hupc with ⟨_, hu⟩ | ⟨hi, hu⟩
      · exact hu ▸ hs.inScript op hc
      · exact hu ▸ hat.succ_lt_length hi
    · intro hop hpos
      refine ran_fbValid hr (by simp [ht]) ?_
      rw [ht, ← hc] at hop
      by_cases h0 : s.upc = 0
      · rw [h0] at hat
        exact .inr (hat.start_writes_fb (by simpa [hc] using hop))
      · exact .inl (hs.fbReady hop (by omega))
    · intro o ho h0
      obtain rfl : op = o := Option.some.inj (ht.symm.trans ho)
      rw [hcfg]
      exact hs.ran_st_eq hc hat hr ht h0

/-- An accepted operation stands at its script's first step in a state in which it may (R232, R237). -/
theorem State.ScriptInv.accepted {s t : State} (hs : s.ScriptInv) {op : HostOp} (hm : mayStart op s.st = true)
    (hcur : t.cur = some op) (hupc : t.upc = 0) (hst : t.st = s.st) (hcfg : t.cfg = s.cfg) (hrom : t.rom = s.rom)
    (hfb : t.fb = s.fb) (hv : t.fbValid = s.fbValid) : t.ScriptInv := by
  refine .of_st ?_ ?_ (by simp [hupc]) (by rw [hfb, hv]; exact hs.fbPixels) ?_
  · rw [State.romIntact, hcfg, hrom]; exact hs.rom
  · intro o _
    have : 0 < (script t.cfg o).length := by cases o <;> simp [script]
    omega
  · intro o ho h0
    obtain rfl : op = o := Option.some.inj (hcur.symm.trans ho)
    rw [hst, hupc]
    cases op
    case init => simp [hupc] at h0
    case render | clear | sleep => simpa [mayStart, scriptSt, script, reg] using hm

/-- Settles O33: a step of a script is `ScriptInv.ran`, an acceptance `ScriptInv.accepted`; a rejection leaves the block
Idle. -/
theorem scriptInvariantKeptByEveryStep : Obligations.ScriptInvariantKeptByEveryStep := by
  intro s t hinv hs h
  rcases step_cases h with ⟨op, w, i, hc, hw, hd, hr⟩ | ⟨_, _, rfl⟩ | ⟨op, r, rest, hc, _, _, ⟨hm, rfl⟩ | ⟨_, rfl⟩⟩
  · exact hs.ran hinv hc (scriptAt_of_fetchWord hs.rom hw hd) hr
  · exact hs
  · exact hs.accepted hm rfl rfl rfl rfl rfl rfl rfl
  · exact .of_idle rfl hs.rom hs.fbPixels

/-- Settles O31: after creation the block is Idle with its own scripts, nothing sent and no FB. -/
theorem invariantsHoldAtReset : Obligations.InvariantsHoldAtReset where
  left := {
    idleAtZero := fun _ => ⟨rfl, rfl⟩
    pollsOnlyInWait := fun h => absurd rfl h
    fbCanonical := reset_fb_wf
    fbInRange := by intro c h; cases h
    fbFull := by intro h; cases h
    selected := rfl }
  right := .of_idle rfl rfl (by intro h; cases h)

/-- Settles O34: the word at `upc` is that of a script's step, which answers a next state while an operation is in progress;
a request's code names an operation, which is accepted or rejected while Idle. -/
theorem blockWithItsScriptsNeverStops : Obligations.BlockWithItsScriptsNeverStops := by
  intro s hs
  cases hc : s.cur with
  | some op =>
    have hget := List.getElem?_eq_getElem (hs.inScript op hc)
    have hstep := (scriptAt_of_getElem? hget).scriptStep
    have hfetch := fetchWord_of_romIntact hs.rom op
    rw [hget] at hfetch
    rw [stepRunsScriptWordAtUpc op _ _ s hc hfetch (decode_encode_scriptStep _ hstep)]
    obtain ⟨t, ht, _⟩ := exec_completes hc (ne_ofHostOp_of_scriptStep hstep)
    exact ⟨t, ht⟩
  | none =>
    obtain ⟨hreq, hnil⟩ := idleStepRunsOldestRequest s hc
    cases hq : s.hostq with
    | nil => exact ⟨s, hnil hq⟩
    | cons r rest =>
      obtain ⟨op, _, hcode⟩ := decodeHost_cases r.code
      rw [hreq op r rest hq hcode, exec_ofHostOp]
      cases hm : mayStart op s.st with
      | true => exact ⟨_, issue_accepted hc hm⟩
      | false => exact ⟨_, issue_rejected hc hm⟩

/-- Settles O35: a step that changes `st`, and not to Uninitialized, is a SETST, and the scripts hold SETST Ready and SETST
Asleep only at their last but one steps (`ScriptAt.setst_place`). -/
theorem readyAndAsleepEnteredOnlyAtOperationEnd : Obligations.ReadyAndAsleepEnteredOnlyAtOperationEnd := by
  intro s t hs h hne
  rcases step_cases h with ⟨op, w, i, hc, hw, hd, hr⟩ | ⟨_, _, rfl⟩ | ⟨_, _, _, _, _, _, ⟨_, rfl⟩ | ⟨_, rfl⟩⟩
  · rcases ran_st hr with hsame | hi | ⟨_, hst, _⟩
    · exact absurd hsame hne
    · have hat := scriptAt_of_fetchWord hs.rom hw hd
      rw [hi] at hat
      rcases hat.setst_place with ⟨_, _, hst⟩ | ⟨rfl, hn, hst⟩ | ⟨rfl, hn, hst⟩
      · simp [hst]
      · simp [hst, hc, hn]
      · have hready : s.st = .ready := (hs.sleepState hc).trans (if_pos (by omega))
        simp [hst, hc, hn, hready]
    · simp [hst]
  · exact absurd rfl hne
  · exact absurd rfl hne
  · exact absurd rfl hne

end Sys2Proof.Machine
end

section
/-! PROOFS. No rule reads `res`, `trace`, `faults` or a latch: two states that differ only there stay alike through every
operation the meanings are written with, hence through a step. -/

namespace Sys2Proof.Machine

/-! ### States, ends and outcomes that are alike -/

/-- From `s` and from `t` the block went on alike to `a` and to `b`: they are equal but for `res`, `trace`, `faults` and the
latches; the same actions and records were appended; `res` and each latch were left in both or written in both with the same
value. -/
structure Alike (s t a b : State) : Prop where
  rest : a.erase = b.erase
  trace : ∃ es, a.trace = s.trace ++ es ∧ b.trace = t.trace ++ es
  faults : ∃ fs, a.faults = s.faults ++ fs ∧ b.faults = t.faults ++ fs
  res : ∃ w : Option Result, a.res = w.getD s.res ∧ b.res = w.getD t.res
  dcLatch : ∃ w : Option (Option Level), a.dcLatch = w.getD s.dcLatch ∧ b.dcLatch = w.getD t.dcLatch
  rstLatch : ∃ w : Option (Option Level), a.rstLatch = w.getD s.rstLatch ∧ b.rstLatch = w.getD t.rstLatch

/-- Parts of a step that ended in the same way, in states that went on alike. -/
inductive EndAlike (s t : State) : StepEnd → StepEnd → Prop
  | done {a b : State} (h : Alike s t a b) : EndAlike s t (.done a) (.done b)
  | again {a b : State} (h : Alike s t a b) : EndAlike s t (.again a) (.again b)
  | ended {a b : State} (h : Alike s t a b) : EndAlike s t (.over a) (.over b)

/-- Steps that stopped alike or answered states that went on alike. -/
inductive OutcomeAlike (s t : State) : Host.Outcome State Fault Refusal → Host.Outcome State Fault Refusal → Prop
  | next {a b : State} (h : Alike s t a b) : OutcomeAlike s t (.next a) (.next b)
  | fault (f : Fault) : OutcomeAlike s t (.fault f) (.fault f)
  | refused (r : Refusal) : OutcomeAlike s t (.refused r) (.refused r)

/-- `x` with `res`, `trace`, `faults` and the latches of `y`. -/
def State.withPast (x y : State) : State :=
  { x with res := y.res, trace := y.trace, faults := y.faults, dcLatch := y.dcLatch, rstLatch := y.rstLatch }

/-! ### Updates of alike states -/

namespace Alike

theorem refl {s t : State} (h : s.erase = t.erase) : Alike s t s t where
  rest := h
  trace := ⟨[], by simp⟩
  faults := ⟨[], by simp⟩
  res := ⟨none, rfl, rfl⟩
  dcLatch := ⟨none, rfl, rfl⟩
  rstLatch := ⟨none, rfl, rfl⟩

variable {s t a b : State} (h : Alike s t a b)
include h

/-- What does not depend on the erased fields is equal in alike states. -/
theorem read {α : Type} (f : State → α) (hf : ∀ x, f x.erase = f x) : f a = f b := by
  rw [← hf a, ← hf b, h.rest]

theorem cur : a.cur = b.cur := h.read State.cur fun _ => rfl
theorem st : a.st = b.st := h.read State.st fun _ => rfl
theorem upc : a.upc = b.upc := h.read State.upc fun _ => rfl
theorem polls : a.polls = b.polls := h.read State.polls fun _ => rfl
theorem cfg : a.cfg = b.cfg := h.read State.cfg fun _ => rfl
theorem rom : a.rom = b.rom := h.read State.rom fun _ => rfl
theorem hostq : a.hostq = b.hostq := h.read State.hostq fun _ => rfl
theorem bm : a.bm = b.bm := h.read State.bm fun _ => rfl
theorem answer : a.answer = b.answer := h.read State.answer fun _ => rfl
theorem fbBytes : a.fbBytes = b.fbBytes := h.read State.fbBytes fun _ => rfl

/-- An update that neither reads nor writes `res`, `trace`, `faults` and the latches. -/
theorem update (f : State → State) (hf : ∀ x y, f (x.withPast y) = (f x).withPast y) : Alike s t (f a) (f b) := by
  have past : ∀ x, f x = (f x).withPast x := fun x => hf x x
  have erased : ∀ x, (f x.erase).erase = ((f x).withPast x.erase).erase := fun x => congrArg State.erase (hf x x.erase)
  exact {
    rest := h.read (fun x => (f x).erase) erased
    trace := by rw [past a, past b]; exact h.trace
    faults := by rw [past a, past b]; exact h.faults
    res := by rw [past a, past b]; exact h.res
    dcLatch := by rw [past a, past b]; exact h.dcLatch
    rstLatch := by rw [past a, past b]; exact h.rstLatch }

theorem log (e : Event) : Alike s t (a.log e) (b.log e) where
  rest := h.rest
  trace := by
    obtain ⟨es, ha, hb⟩ := h.trace
    exact ⟨es ++ [e], by simp [ha], by simp [hb]⟩
  faults := h.faults
  res := h.res
  dcLatch := h.dcLatch
  rstLatch := h.rstLatch

theorem latch (p : OutPin) (l : Option Level) : Alike s t (a.latch p l) (b.latch p l) := by
  cases p
  case rst => exact { h with rest := h.rest, rstLatch := ⟨some l, rfl, rfl⟩ }
  case dc => exact { h with rest := h.rest, dcLatch := ⟨some l, rfl, rfl⟩ }

theorem raise (op : HostOp) (e : Exc) : Alike s t (raiseExc op e a) (raiseExc op e b) where
  rest := h.read (fun x => (raiseExc op e x).erase) fun _ => rfl
  trace := h.trace
  faults := by
    obtain ⟨fs, ha, hb⟩ := h.faults
    exact ⟨fs ++ [{ op := op, exc := e }], by simp [ha], by simp [hb]⟩
  res := ⟨some (.exc e), rfl, rfl⟩
  dcLatch := h.dcLatch
  rstLatch := h.rstLatch

theorem consume : Alike s t a.consume b.consume :=
  h.update State.consume fun _ _ => rfl

theorem storeFb (bs : List Byte) : Alike s t (a.storeFb bs) (b.storeFb bs) :=
  h.update (fun x => x.storeFb bs) fun _ _ => rfl

theorem setPolls (n : Nat) : Alike s t { a with polls := n } { b with polls := n } :=
  h.update (fun x => { x with polls := n }) fun _ _ => rfl

theorem countPoll : Alike s t { a with polls := a.polls + 1 } { b with polls := b.polls + 1 } :=
  h.update (fun x => { x with polls := x.polls + 1 }) fun _ _ => rfl

theorem setSt (c : CtrlState) : Alike s t { a with st := c } { b with st := c } :=
  h.update (fun x => { x with st := c }) fun _ _ => rfl

theorem advance : Alike s t { a with upc := a.upc + 1 } { b with upc := b.upc + 1 } :=
  h.update (fun x => { x with upc := x.upc + 1 }) fun _ _ => rfl

theorem accept (op : HostOp) :
    Alike s t { a with cur := some op, upc := 0, polls := 0 } { b with cur := some op, upc := 0, polls := 0 } :=
  h.update (fun x => { x with cur := some op, upc := 0, polls := 0 }) fun _ _ => rfl

theorem takeRequest (r : HostReq) (rest : List HostReq) : Alike s t (takeRequest a r rest) (takeRequest b r rest) :=
  h.update (fun x => Machine.takeRequest x r rest) fun _ _ => rfl

/-! ### The operations in alike states -/

theorem transportFail (op : HostOp) (act : Action) : EndAlike s t (transportFail op act a) (transportFail op act b) := by
  rw [Machine.transportFail, Machine.transportFail, h.upc]
  exact .ended (h.raise op _)

theorem setPin (op : HostOp) (p : OutPin) (l : Level) : EndAlike s t (setPin op p l a) (setPin op p l b) := by
  unfold Machine.setPin
  rw [h.answer]
  split
  · exact .done ((h.consume.log _).latch p _)
  · exact ((h.consume.log _).latch p _).transportFail op _

theorem txByte (op : HostOp) (x : Byte) : EndAlike s t (txByte op x a) (txByte op x b) := by
  unfold Machine.txByte
  rw [h.answer]
  split
  · exact .done (h.consume.log _)
  · exact (h.consume.log _).transportFail op _

theorem txBurst (op : HostOp) (bs : List Byte) : EndAlike s t (txBurst op bs a) (txBurst op bs b) := by
  unfold Machine.txBurst
  rw [h.answer]
  split
  · exact .done (h.consume.log _)
  · exact (h.consume.log _).transportFail op _

omit h in
/-- What follows a part that went well is alike when it is alike from every pair of alike states. -/
theorem andThen {r r' : StepEnd} {f g : State → StepEnd} (hr : EndAlike s t r r')
    (hf : ∀ a b, Alike s t a b → EndAlike s t (f a) (g b)) : EndAlike s t (r.andThen f) (r'.andThen g) := by
  cases hr
  case done h => exact hf _ _ h
  case again h => exact .again h
  case ended h => exact .ended h

theorem sendByteAt (op : HostOp) (l : Level) (x : Byte) : EndAlike s t (sendByteAt op l x a) (sendByteAt op l x b) :=
  andThen (h.setPin op .dc l) fun _ _ h' => h'.txByte op x

theorem sendDataBurst (op : HostOp) :
    EndAlike s t (sendDataBurst op a.fbBytes a) (sendDataBurst op b.fbBytes b) := by
  rw [Machine.sendDataBurst, Machine.sendDataBurst, h.cfg, h.fbBytes]
  exact andThen (h.setPin op .dc _) fun _ _ h' => h'.txBurst op _

theorem busyRead (op : HostOp) : EndAlike s t (busyRead op a) (busyRead op b) := by
  have hlimit : pollLimit a.cfg.maxPolls (a.polls + 1) = pollLimit b.cfg.maxPolls (b.polls + 1) := by rw [h.cfg, h.polls]
  have hexc : Exc.timeout op a.upc (a.polls + 1) = .timeout op b.upc (b.polls + 1) := by rw [h.upc, h.polls]
  unfold Machine.busyRead
  rw [hlimit, hexc]
  split
  · exact .ended (h.countPoll.raise op _)
  · exact .again (h.countPoll.log _)

theorem pollBusy (op : HostOp) : EndAlike s t (pollBusy op a) (pollBusy op b) := by
  unfold Machine.pollBusy
  rw [h.answer, h.cfg]
  split
  · dsimp only
    split
    · exact .done ((h.consume.log _).setPolls 0)
    · exact (h.consume.log _).busyRead op
  · exact (h.consume.log _).transportFail op _

theorem packStep (op : HostOp) : EndAlike s t (packStep op a) (packStep op b) := by
  unfold Machine.packStep
  rw [h.bm]
  split
  · exact .done (h.storeFb _)
  · exact .ended (h.raise op _)

theorem finish : EndAlike s t (finish a) (finish b) :=
  .ended { h with
    rest := h.read (fun x => { x.erase with cur := none, upc := 0 }) fun _ => rfl
    res := ⟨some .ok, rfl, rfl⟩ }

omit h in
theorem settle {r r' : StepEnd} (hr : EndAlike s t r r') : Alike s t (settle r) (settle r') := by
  cases hr
  case done h => exact h.advance
  case again h => exact h
  case ended h => exact h

/-! ### Instructions and steps in alike states -/

/-- An instruction that runs a step runs it alike. -/
theorem effect {op : HostOp} {i : Instr} {r r' : StepEnd} (hr : effect op a i = some r) (hr' : effect op b i = some r') :
    EndAlike s t r r' := by
  have byte : ∀ x x', (sendsByte a.cfg i).map (fun y => Machine.sendByteAt op y.1 y.2 a) = some x →
      (sendsByte b.cfg i).map (fun y => Machine.sendByteAt op y.1 y.2 b) = some x' → EndAlike s t x x' := by
    intro x x' hx hx'
    rw [h.cfg] at hx
    obtain ⟨y, hy, rfl⟩ := Option.map_eq_some_iff.mp hx
    rw [hy] at hx'
    cases hx'
    exact h.sendByteAt op y.1 y.2
  cases i
  case hostInitialize | hostRender | hostClear | hostSleep => cases hr
  case endOp => cases hr; cases hr'; exact h.finish
  case burst => cases hr; cases hr'; exact h.sendDataBurst op
  case wait => cases hr; cases hr'; exact h.pollBusy op
  case dly n => cases hr; cases hr'; exact .done (h.log _)
  case pin p l => cases hr; cases hr'; exact h.setPin op p l
  case pack => cases hr; cases hr'; exact h.packStep op
  case fill v =>
    simp only [Machine.effect, fillStep, Option.some.injEq] at hr hr'
    rw [← hr, ← hr']
    exact .done (h.storeFb _)
  case setst c => cases hr; cases hr'; exact .done (h.setSt c)
  all_goals exact byte _ _ hr hr'

theorem issue (op : HostOp) : OutcomeAlike s t (issue op a) (issue op b) := by
  have hmay : mayStart op a.st = mayStart op b.st := by rw [h.st]
  have hexc : Exc.wrongState op a.st = .wrongState op b.st := by rw [h.st]
  unfold Machine.issue
  rw [h.cur, hmay, hexc]
  split
  · exact .refused _
  · split
    · exact .next (h.accept op)
    · exact .next (h.raise op _)

theorem exec (i : Instr) : OutcomeAlike s t (exec i a) (exec i b) := by
  rcases exec_eq i a with ⟨op, rfl, _⟩ | ⟨r, hr, he⟩
  · rw [exec_ofHostOp, exec_ofHostOp]
    exact h.issue op
  rcases exec_eq i b with ⟨op, rfl, _⟩ | ⟨r', hr', he'⟩
  · have := hr op
    cases op <;> cases this
  rw [he, he']
  cases hc : b.cur with
  | some op =>
    rw [runStep_some (h.cur.trans hc), runStep_some hc]
    exact .next (settle (h.effect (hr op) (hr' op)))
  | none =>
    rw [runStep_none (h.cur.trans hc), runStep_none hc]
    exact .refused _

theorem execWord (w : CodeWord) : OutcomeAlike s t (execWord w a) (execWord w b) := by
  unfold Machine.execWord
  rw [h.cfg]
  split
  · exact h.exec _
  · exact .refused _

theorem step : OutcomeAlike s t (step a) (step b) := by
  cases hc : b.cur with
  | some op =>
    simp only [Machine.step, h.cur.trans hc, hc, stepScript, fetchWord, h.rom, h.upc]
    split
    · exact h.execWord _
    · exact .fault _
  | none =>
    simp only [Machine.step, h.cur.trans hc, hc, stepIdle, h.hostq]
    split
    · exact (h.takeRequest _ _).execWord _
    · exact .next h

end Alike

theorem OutcomeAlike.eraseOutcome_eq {s t : State} {o o' : Host.Outcome State Fault Refusal} (h : OutcomeAlike s t o o') :
    eraseOutcome o = eraseOutcome o' := by
  cases h
  case next h => exact congrArg Host.Outcome.next h.rest
  case fault | refused => rfl

theorem OutcomeAlike.of_next {s t a b : State} (h : OutcomeAlike s t (.next a) (.next b)) : Alike s t a b := by
  cases h
  assumption

/-- Settles O30: from the two states themselves a step goes on alike (`Alike.step`). -/
theorem historiesAndLatchesNeverRead : Obligations.HistoriesAndLatchesNeverRead := by
  intro s t hst
  have h := (Alike.refl hst).step
  refine ⟨h.eraseOutcome_eq, fun s' t' hs ht => ?_⟩
  rw [hs, ht] at h
  have ha := h.of_next
  exact ⟨ha.trace, ha.faults, ha.res, ha.dcLatch, ha.rstLatch⟩

end Sys2Proof.Machine
end

section
/-! SUPPORT. The two round trips of encoding and decoding, one format after the other: the host's codes (R87), the script
steps (R90) and the frames (R80, R92). -/

namespace Sys2Proof.Machine

/-! ### The host's codes -/

/-- The word of a public operation is its 2-bit code (R87). -/
theorem encode_ofHostOp (K : Opcodes) (op : HostOp) : encode K (.ofHostOp op) = .host (hostCode op) := by cases op <;> rfl

/-! ### Script steps -/

/-- What an instruction without operand decodes from (R90). -/
theorem noOperand_eq_ok {a : Byte} {i j : Instr} (h : noOperand a i = .ok j) : a = 0#8 ∧ i = j := by
  unfold noOperand at h
  split at h
  · cases h; exact ⟨‹_›, rfl⟩
  · cases h

/-- A byte with no bits but 4 and 0 is the PIN operand of the pin and the level these two bits name (R90). -/
theorem eq_pinOperand {a : Byte} (h : a &&& 0xEE#8 = 0#8) :
    a = pinOperand (if a.getLsbD 4 then .dc else .rst) (if a.getLsbD 0 then .high else .low) := by
  revert a; decide

/-- A byte with no bits but 1 and 0 is these two bits, zero-extended (R90). -/
theorem eq_setWidth_extractLsb' {a : Byte} (h : a &&& 0xFC#8 = 0#8) : a = (a.extractLsb' 0 2).setWidth 8 := by
  revert a; decide

/-- A state code names the state it is the code of (R88). -/
theorem code_of_ctrlStateOfCode : ∀ {c : BitVec 2} {x : CtrlState}, ctrlStateOfCode c = some x → x.code = c := by
  decide

/-- PIN loses no bit of its operand (R90). -/
theorem encode_of_decodePin {K : Opcodes} {a : Byte} {i : Instr} (h : decodePin a = .ok i) : encode K i = uopWord 0x6#4 a := by
  unfold decodePin at h
  split at h
  next hbits => cases h; exact congrArg (uopWord 0x6#4) (eq_pinOperand hbits).symm
  next => cases h

/-- SETST loses no bit of its operand (R88, R90). -/
theorem encode_of_decodeSetst {K : Opcodes} {a : Byte} {i : Instr} (h : decodeSetst a = .ok i) :
    encode K i = uopWord 0x9#4 a := by
  unfold decodeSetst at h
  split at h
  next hbits =>
    split at h
    next x hx =>
      cases h
      rw [encode, code_of_ctrlStateOfCode hx, ← eq_setWidth_extractLsb' hbits]
    next => cases h
  next => cases h

/-- A step of kind `k` with operand `a` is encoded as `k` and `a` (R90). -/
theorem encode_of_decodeKind {K : Opcodes} {a : Byte} {k : Nat} {i : Instr} (h : decodeKind a k = .ok i) :
    encode K i = uopWord (BitVec.ofNat 4 k) a := by
  match k, h with
  | 0, h | 3, h | 4, h | 7, h => obtain ⟨rfl, rfl⟩ := noOperand_eq_ok h; rfl
  | 1, h | 2, h | 5, h | 8, h => cases h; rfl
  | 6, h => exact encode_of_decodePin h
  | 9, h => exact encode_of_decodeSetst h
  | _ + 10, h => cases h

/-- A script step's word is its kind and its operand, so all of it comes back (R90). -/
theorem encode_of_decodeUop {K : Opcodes} {w : BitVec 12} {i : Instr} (h : decodeUop w = .ok i) : encode K i = .uop w := by
  rw [encode_of_decodeKind h, BitVec.ofNat_toNat, BitVec.setWidth_eq, uopWord, ← uop_split w]

/-- The kinds from 10 are reserved (R97). -/
theorem decodeKind_reserved (a : Byte) {k : Nat} (h : 10 ≤ k) : decodeKind a k = .error .reservedKind := by
  obtain ⟨n, rfl⟩ := Nat.exists_eq_add_of_le' h
  rfl

/-! ### Frames -/

/-- With distinct opcode bytes the command frame of a name decodes to that command (R92, R93). -/
theorem decode_encode_command {K : Opcodes} (h : K.distinct = true) (n : OpName) :
    decode K (encode K (.command n)) = .ok (.command n) :=
  calc decode K (encode K (.command n))
    _ = decodeCommand K (K.byte n) := by rw [encode_command]; exact decodeFrame_command K _
    _ = .ok (.command n) := by rw [decodeCommand, opNameOf_byte h]

/-- The same, for an instruction that is one of the 38 commands. -/
theorem decode_encode_of_mem_commands {K : Opcodes} (h : K.distinct = true) {i : Instr}
    (hi : i ∈ OpName.all.map Instr.command) : decode K (encode K i) = .ok i := by
  obtain ⟨n, _, rfl⟩ := List.mem_map.mp hi
  exact decode_encode_command h n

/-- The byte of a decoded command frame is the opcode of the command (R92). -/
theorem encode_of_decodeCommand {K : Opcodes} {b : Byte} {i : Instr} (h : decodeCommand K b = .ok i) :
    encode K i = commandFrame b := by
  unfold decodeCommand at h
  split at h
  next n hn => cases h; rw [encode_command, byte_of_opNameOf hn]
  next => cases h

/-- A frame is `sel` and its byte, so all of it comes back (R80, R92). -/
theorem encode_of_decodeFrame {K : Opcodes} {w : BitVec 9} {i : Instr} (h : decodeFrame K w = .ok i) :
    encode K i = .frame w := by
  rw [frame_split w]
  unfold decodeFrame at h
  split at h
  next hsel => cases h; rw [if_pos hsel]; rfl
  next hsel => rw [if_neg hsel, encode_of_decodeCommand h]; rfl

/-- A byte that is no opcode's is not looked up (R97). -/
theorem opNameOf_eq_none {K : Opcodes} {b : Byte} (h : ∀ n, K.byte n ≠ b) : opNameOf K b = none := by
  rw [opNameOf, List.find?_eq_none]
  intro n _
  simpa using h n

end Sys2Proof.Machine
end

section
/-! PROOFS. Words and instructions (spec/30_encoding.md). -/

namespace Sys2Proof.Machine

/-- Settles O48: a command by `decode_encode_of_mem_commands`, a step a script may hold by `decode_encode_scriptStep`; beside
these stand the data frame, the host's codes, and DLY and PIN with the operands no script holds. -/
theorem decodeInvertsEncode : Obligations.DecodeInvertsEncode := by
  intro K i hK
  cases i
  case data b => exact decodeFrame_data K b
  case hostInitialize | hostRender | hostClear | hostSleep => rfl
  case endOp | cmd | dat | burst | wait | pack | fill | setst => exact decode_encode_scriptStep K rfl
  case dly a => exact decodeUop_append 0x5#4 a
  case pin p l => cases p <;> cases l <;> rfl
  all_goals exact decode_encode_of_mem_commands hK (by decide)

/-- Settles O49, format by format. -/
theorem encodeInvertsDecode : Obligations.EncodeInvertsDecode := by
  intro K w i h
  cases w with
  | host w =>
    obtain ⟨op, hdec, rfl⟩ := decodeHost_cases w
    rw [decode, hdec] at h
    cases h
    exact encode_ofHostOp K op
  | uop w => exact encode_of_decodeUop h
  | frame w => exact encode_of_decodeFrame h

/-- Settles O50: each word is split into its fields, and the decoder of its kind refuses the operand. -/
theorem reservedWordsRefused : Obligations.ReservedWordsRefused := by
  intro K a
  have hstep (k : BitVec 4) : decode K (.uop (k ++ a)) = decodeKind a k.toNat := decodeUop_append k a
  refine ⟨fun k hk => ?_, fun ha k hk => ?_, fun ha => ?_, fun ha => ?_, rfl, fun hn => ?_⟩
  · rw [hstep, decodeKind_reserved a hk]
  · rw [hstep]
    rcases hk with rfl | rfl | rfl | rfl <;> exact if_neg ha
  · exact (hstep _).trans (if_neg ha)
  · exact (hstep _).trans (if_neg ha)
  · calc decode K (.frame (0#1 ++ a))
      _ = decodeCommand K a := decodeFrame_command K a
      _ = .error .unknownOpcode := by rw [decodeCommand, opNameOf_eq_none hn]

/-- Settles O51: the default bytes are fixed data. -/
theorem defaultOpcodesDistinct : Obligations.DefaultOpcodesDistinct := ⟨by decide, by decide⟩

/-- Settles O52: the decoder runs on each word. -/
theorem specWordsDecode : Obligations.SpecWordsDecode := by
  unfold Obligations.SpecWordsDecode
  decide

end Sys2Proof.Machine
end

section
/-! PROOFS. What one byte sent at a DC level comes to (spec/40_framer.md): the byte sent, the byte lost, the selection lost. -/

namespace Sys2Proof.Machine

/-! ### Sending one byte -/

section
variable {op : HostOp} {s : State} {i : Instr} {l : Level} {b : Byte}

/-- An exception of a transport action leaves what R273 and R280 say. -/
theorem transportFail_eq (op : HostOp) (a : Action) (s : State) : transportFail op a s = .over (transportFailed op a s) := rfl

/-- What two answered actions write, when the first drives DC. -/
theorem log_latch_consume_log (s : State) (l : Option Level) (e e' : Event) :
    ((s.consume.log e).latch .dc l).consume.log e' =
      { s.consume.consume with dcLatch := l, trace := s.trace ++ [e, e'] } := by
  simp [State.log, State.latch, State.consume]

/-- CMD, DAT and the frames are one operation: send a byte at a level (R121, R122). -/
theorem exec_eq_sendByteAt (hc : s.cur = some op) (hi : sendsByte s.cfg i = some (l, b)) :
    exec i s = .next (settle (sendByteAt op l b s)) := by
  rcases sendsByte_some hi with ⟨rfl, rfl | ⟨n, rfl, rfl⟩⟩ | ⟨rfl, rfl | rfl⟩
  · exact runStep_some hc _
  · exact (exec_command n s).trans (runStep_some hc _)
  · exact runStep_some hc _
  · exact runStep_some hc _

/-- Both actions answered ok: the level is latched, both are in the trace, `upc` advances (R25). -/
theorem exec_byte_sent (hc : s.cur = some op) (hi : sendsByte s.cfg i = some (l, b)) (h1 : s.answer.ok = true)
    (h2 : s.consume.answer.ok = true) :
    exec i s = .next { s.consume.consume with
      dcLatch := some l
      trace := s.trace ++ [.setPin .dc l true, .txByte b true]
      upc := s.upc + 1 } := by
  rw [exec_eq_sendByteAt hc hi, sendByteAt, setPin_ok op .dc l h1, andThen_done, txByte_ok op b (by simpa using h2),
    log_latch_consume_log, settle_done]
  rfl

/-- The byte answered fail: the level stays latched, the operation ends. -/
theorem exec_byte_lost (hc : s.cur = some op) (hi : sendsByte s.cfg i = some (l, b)) (h1 : s.answer.ok = true)
    (h2 : s.consume.answer.ok = false) :
    exec i s = .next (transportFailed op (.txByte b) { s.consume.consume with
      dcLatch := some l
      trace := s.trace ++ [.setPin .dc l true, .txByte b false] }) := by
  rw [exec_eq_sendByteAt hc hi, sendByteAt, setPin_ok op .dc l h1, andThen_done, txByte_fail op b (by simpa using h2),
    log_latch_consume_log, transportFail_eq, settle_over]

/-- The selection answered fail: the latch is unknown, no byte is attempted, the operation ends. -/
theorem exec_select_lost (hc : s.cur = some op) (hi : sendsByte s.cfg i = some (l, b)) (h1 : s.answer.ok = false) :
    exec i s = .next (transportFailed op (.setPin .dc l) { s.consume with
      dcLatch := none
      trace := s.trace ++ [.setPin .dc l false] }) := by
  rw [exec_eq_sendByteAt hc hi, sendByteAt, setPin_fail op .dc l h1, transportFail_eq, andThen_over, settle_over]
  rfl

end

/-! ### Frames -/

/-- Settles O11: a command frame sends its opcode's byte at the command level. -/
theorem commandFrameSendsItsOpcode : Obligations.CommandFrameSendsItsOpcode := by
  intro n op s hc
  have hi : sendsByte s.cfg (.command n) = some (s.cfg.cmdLevel, s.cfg.ops.byte n) := sendsByte_command s.cfg n
  exact ⟨exec_byte_sent hc hi, exec_byte_lost hc hi, exec_select_lost hc hi⟩

/-- Settles O12: the data frame sends its byte at the data level. -/
theorem dataFrameSendsItsByte : Obligations.DataFrameSendsItsByte := by
  intro b op s hc
  have hi : sendsByte s.cfg (.data b) = some (s.cfg.dataLevel, b) := rfl
  exact ⟨exec_byte_sent hc hi, exec_byte_lost hc hi, exec_select_lost hc hi⟩

end Sys2Proof.Machine
end

section
/-! SUPPORT. One reading of BUSY, case by case (spec R142), as an outcome and as a step at a WAIT word; and runs put one after
the other. -/

namespace Sys2Proof.Machine

/-! ### Runs -/

/-- A run begins with a step. -/
theorem runSteps_succ {s t : State} (h : step s = .next t) (n : Nat) : runSteps (n + 1) s = runSteps n t := by
  simp only [runSteps, h]

/-- A run goes on from where an earlier one ended. -/
theorem runSteps_add {n : Nat} {s t : State} (h : runSteps n s = .next t) (k : Nat) :
    runSteps (n + k) s = runSteps k t := by
  induction n generalizing s with
  | zero =>
    cases h
    rw [Nat.zero_add]
  | succ n ih =>
    cases hs : step s with
    | next u =>
      rw [runSteps_succ hs] at h
      rw [Nat.succ_add, runSteps_succ hs, ih h]
    | fault f => simp [runSteps, hs] at h
    | refused r => simp [runSteps, hs] at h

/-- A run and one more step. -/
theorem runSteps_succ_of_step {n : Nat} {s t u : State} (h : runSteps n s = .next t) (hu : step t = .next u) :
    runSteps (n + 1) s = .next u :=
  (runSteps_add h 1).trans (runSteps_succ hu 0)

/-! ### One reading of BUSY -/

/-- The bound is not reached: there is none, or it lies above (R142). -/
theorem pollLimit_eq_false {b : Option Nat} {n : Nat} (h : ∀ m, b = some m → n < m) : pollLimit b n = false := by
  cases b with
  | none => rfl
  | some m => exact decide_eq_false (Nat.not_le.mpr (h m rfl))

/-- The bound is reached (R142). -/
theorem pollLimit_eq_true {b : Option Nat} {n m : Nat} (hb : b = some m) (h : m ≤ n) : pollLimit b n = true := by
  subst hb
  exact decide_eq_true h

section
variable {op : HostOp} {s : State}

/-- An idle reading ends the wait. -/
theorem pollBusy_idle (hok : s.answer.ok = true) (hl : s.answer.level = s.cfg.idleLevel) :
    pollBusy op s = .done { s.consume with polls := 0, trace := s.trace ++ [.readPin (some s.cfg.idleLevel)] } := by
  rw [pollBusy, if_pos hok, if_pos hl, hl]
  rfl

/-- A busy reading is counted against the bound. -/
theorem pollBusy_busy (hok : s.answer.ok = true) (hl : s.answer.level ≠ s.cfg.idleLevel) :
    pollBusy op s = busyRead op (s.consume.log (.readPin (some s.cfg.busyLevel))) := by
  rw [pollBusy, if_pos hok, if_neg hl, Config.busyLevel_of_ne hl]

/-- A busy reading below the bound is followed by one delay, and WAIT repeats. -/
theorem pollBusy_again (hok : s.answer.ok = true) (hl : s.answer.level ≠ s.cfg.idleLevel)
    (hm : ∀ m, s.cfg.maxPolls = some m → s.polls + 1 < m) :
    pollBusy op s = .again { s.consume with
      polls := s.polls + 1, trace := s.trace ++ [.readPin (some s.cfg.busyLevel), .delay 100] } := by
  have hlim : ¬ pollLimit s.cfg.maxPolls (s.polls + 1) = true := by simp [pollLimit_eq_false hm]
  rw [pollBusy_busy hok hl, busyRead]
  refine (if_neg hlim).trans ?_
  simp [State.log, pollIntervalMs]

/-- A busy reading at the bound raises Timeout. -/
theorem pollBusy_timeout {m : Nat} (hok : s.answer.ok = true) (hl : s.answer.level ≠ s.cfg.idleLevel)
    (hb : s.cfg.maxPolls = some m) (hm : m ≤ s.polls + 1) :
    pollBusy op s = .over (raiseExc op (.timeout op s.upc (s.polls + 1)) { s.consume with
      polls := s.polls + 1, trace := s.trace ++ [.readPin (some s.cfg.busyLevel)] }) := by
  rw [pollBusy_busy hok hl, busyRead]
  exact if_pos (pollLimit_eq_true hb hm)

/-- A step at a WAIT word is one reading (R25, R248). -/
theorem step_wait (hc : s.cur = some op) (hw : fetchWord s op = some (.uop 0x400#12)) :
    step s = .next (settle (pollBusy op s)) :=
  (stepRunsScriptWordAtUpc op _ .wait s hc hw rfl).trans (runStep_some hc pollBusy)

end

end Sys2Proof.Machine
end

section
/-! PROOFS. The busy synchronizer over many steps (spec R142 to R147): where a wait stands after `n` busy readings, and the
reading that ends it. -/

namespace Sys2Proof.Machine

/-! ### After `n` busy readings -/

/-- The actions of `n` busy readings that end no wait (R142). -/
def busyEvents (c : Config) (n : Nat) : List Event :=
  (List.replicate n [Event.readPin (some c.busyLevel), Event.delay 100]).flatten

theorem busyEvents_succ (c : Config) (n : Nat) :
    busyEvents c (n + 1) = busyEvents c n ++ [.readPin (some c.busyLevel), .delay 100] := by
  simp [busyEvents, List.replicate_succ']

theorem waitEvents_eq (c : Config) (j : Nat) : waitEvents c j = busyEvents c j ++ [.readPin (some c.idleLevel)] := rfl

theorem timeoutEvents_succ (c : Config) (n : Nat) :
    timeoutEvents c (n + 1) = busyEvents c n ++ [.readPin (some c.busyLevel)] := rfl

/-- The first `n` of `n + 1` busy readings, and the last one. -/
theorem State.busyFrom_succ {s : State} {n : Nat} (h : s.busyFrom 0 (n + 1)) :
    s.busyFrom 0 n ∧ (s.answerAt n).ok = true ∧ (s.answerAt n).level ≠ s.cfg.idleLevel :=
  ⟨fun i hi => h i (Nat.lt_succ_of_lt hi), Nat.zero_add n ▸ h n n.lt_succ_self⟩

/-- Where a wait stands after `n` busy readings that end no wait: `upc` has not moved. -/
def State.afterBusy (s : State) (n : Nat) : State :=
  { s.consumeMany n with polls := s.polls + n, trace := s.trace ++ busyEvents s.cfg n }

/-- The last of `n + 1` answers used up. -/
theorem State.consumeMany_succ (s : State) (n : Nat) : s.consumeMany (n + 1) = (s.consumeMany n).consume :=
  (s.consumeMany_add n 1).symm

section
variable (s : State) (n : Nat)

@[simp] theorem State.afterBusy_cur : (s.afterBusy n).cur = s.cur := s.consumeMany_cur n
@[simp] theorem State.afterBusy_upc : (s.afterBusy n).upc = s.upc := s.consumeMany_upc n
@[simp] theorem State.afterBusy_cfg : (s.afterBusy n).cfg = s.cfg := s.consumeMany_cfg n
@[simp] theorem State.afterBusy_rom : (s.afterBusy n).rom = s.rom := s.consumeMany_rom n
@[simp] theorem State.afterBusy_polls : (s.afterBusy n).polls = s.polls + n := rfl
@[simp] theorem State.afterBusy_trace : (s.afterBusy n).trace = s.trace ++ busyEvents s.cfg n := rfl
@[simp] theorem State.afterBusy_faults : (s.afterBusy n).faults = s.faults := s.consumeMany_faults n

@[simp] theorem State.afterBusy_fetchWord (op : HostOp) : fetchWord (s.afterBusy n) op = fetchWord s op := by
  simp [fetchWord]

/-- The next reading is the one at place `n`. -/
@[simp] theorem State.afterBusy_answer : (s.afterBusy n).answer = s.answerAt n :=
  s.consumeMany_answerAt n 0

/-- The next reading uses up `n + 1` answers in all. -/
theorem State.afterBusy_consume : (s.afterBusy n).consume =
    { s.consumeMany (n + 1) with polls := s.polls + n, trace := s.trace ++ busyEvents s.cfg n } := by
  rw [s.consumeMany_succ]
  rfl

end

section
variable {op : HostOp} {s : State} {n : Nat}

/-- The wait goes on with one more reading. -/
theorem step_afterBusy (hc : s.cur = some op) (hw : fetchWord s op = some (.uop 0x400#12)) :
    step (s.afterBusy n) = .next (settle (pollBusy op (s.afterBusy n))) :=
  step_wait ((s.afterBusy_cur n).trans hc) ((s.afterBusy_fetchWord n op).trans hw)

/-- Busy readings below the bound keep the block at its WAIT, one step each. -/
theorem runSteps_busy (hc : s.cur = some op) (hw : fetchWord s op = some (.uop 0x400#12)) (hbusy : s.busyFrom 0 n)
    (hm : ∀ m, s.cfg.maxPolls = some m → s.polls + n < m) : runSteps n s = .next (s.afterBusy n) := by
  induction n with
  | zero => simp [runSteps, State.afterBusy, busyEvents]
  | succ n ih =>
    obtain ⟨hfirst, hok, hl⟩ := State.busyFrom_succ hbusy
    refine runSteps_succ_of_step (ih hfirst fun m h => Nat.lt_of_succ_lt (hm m h)) ?_
    rw [step_afterBusy hc hw, pollBusy_again (by simpa using hok) (by simpa using hl)
      (by simpa [Nat.add_assoc] using hm), settle_again, State.afterBusy_consume]
    simp [State.afterBusy, busyEvents_succ, Nat.add_assoc]

end

/-! ### The obligations -/

/-- Settles O40: with no bound, `runSteps_busy` applies to any number of busy readings. -/
theorem unboundedWaitHangs : Obligations.UnboundedWaitHangs := by
  intro n op s hc hw hnone hbusy
  exact runSteps_busy hc hw hbusy (by simp [hnone])

/-- Settles O38: `j` busy readings (`runSteps_busy`), then the idle one. -/
theorem waitReturnsAfterBusyReadings : Obligations.WaitReturnsAfterBusyReadings := by
  intro j op s hc hw hbusy hidle hm
  obtain ⟨hok, hl⟩ := hidle
  refine runSteps_succ_of_step (runSteps_busy hc hw hbusy hm) ?_
  rw [step_afterBusy hc hw, pollBusy_idle (by simpa using hok) (by simpa using hl), settle_done, State.afterBusy_consume]
  simp [waitEvents_eq]

/-- Settles O39: `m - 1` busy readings below the bound (`runSteps_busy`), then the one at it. -/
theorem waitTimesOutAtBound : Obligations.WaitTimesOutAtBound := by
  intro m op s hc hw hmax hpos hzero hbusy
  obtain ⟨n, rfl⟩ := Nat.exists_eq_add_of_le' hpos
  obtain ⟨hfirst, hok, hl⟩ := State.busyFrom_succ hbusy
  refine runSteps_succ_of_step (runSteps_busy hc hw hfirst (by simp [hmax, hzero])) ?_
  rw [step_afterBusy hc hw, pollBusy_timeout (m := n + 1) (by simpa using hok) (by simpa using hl)
    (by simpa using hmax) (by simp [hzero]), settle_over, State.afterBusy_consume]
  simp [raiseExc, Exc.resetsState, timeoutEvents_succ, hzero]

/-- Settles O41: the premise names the number of busy readings, and with no bound O38 holds for it. -/
theorem waitReturnsWhenEventuallyIdle : Obligations.WaitReturnsWhenEventuallyIdle := by
  intro op s hc hw hnone heventually
  obtain ⟨j, hbusy, hidle⟩ := heventually
  have hrun := waitReturnsAfterBusyReadings j op s hc hw hbusy hidle (by simp [hnone])
  exact ⟨j + 1, _, hrun, by simpa using hc, rfl, rfl⟩

end Sys2Proof.Machine
end

section
/-! SUPPORT. A stretch of an operation whose actions are all answered ok: what its actions leave of the state, and the state
the operation has reached with them (spec R25). An operation run to its end is such stretches put one after the other. -/

namespace Sys2Proof.Machine

/-! ### What actions leave -/

/-- Whether an action uses up an answer: all do but a delay (R272). -/
def Event.answered : Event → Bool
  | .delay _ => false
  | _ => true

/-- How many answers these actions use up. -/
def answersUsed (es : List Event) : Nat := es.countP Event.answered

/-- What the latch of pin `p` holds after an action (R30, R240). -/
def latchAfter (p : OutPin) (l : Option Level) : Event → Option Level
  | .setPin q m ok => if q = p then (if ok then some m else none) else l
  | _ => l

/-- What the latch of pin `p` holds after these actions. -/
def latchOf (p : OutPin) (l : Option Level) (es : List Event) : Option Level := es.foldl (latchAfter p) l

/-- The state with other latches and another trace. -/
def State.setHistory (s : State) (dc rst : Option Level) (tr : List Event) : State :=
  { s with dcLatch := dc, rstLatch := rst, trace := tr }

/-- The state with another `st` and `upc`. -/
def State.setControl (s : State) (x : CtrlState) (n : Nat) : State := { s with st := x, upc := n }

/-- The state after these actions: their answers are used up, the latches hold what they drove last, and they are in
`trace`. -/
def State.perform (s : State) (es : List Event) : State :=
  (s.consumeMany (answersUsed es)).setHistory (latchOf .dc s.dcLatch es) (latchOf .rst s.rstLatch es) (s.trace ++ es)

@[simp] theorem answersUsed_nil : answersUsed [] = 0 := rfl

@[simp] theorem answersUsed_append (es fs : List Event) : answersUsed (es ++ fs) = answersUsed es + answersUsed fs :=
  List.countP_append

@[simp] theorem latchOf_append (p : OutPin) (l : Option Level) (es fs : List Event) :
    latchOf p l (es ++ fs) = latchOf p (latchOf p l es) fs := List.foldl_append

/-- Using up answers and writing other fields can be done in either order. -/
theorem State.consumeMany_comm {f : State → State} (hf : ∀ s, (f s).consume = f s.consume) (s : State) (k : Nat) :
    (f s).consumeMany k = f (s.consumeMany k) := by
  induction k generalizing s with
  | zero => rfl
  | succ k ih => exact (congrArg (·.consumeMany k) (hf s)).trans (ih s.consume)

section
variable (s : State) (es : List Event)

@[simp] theorem State.perform_cur : (s.perform es).cur = s.cur := s.consumeMany_cur _
@[simp] theorem State.perform_polls : (s.perform es).polls = s.polls := s.consumeMany_polls _
@[simp] theorem State.perform_cfg : (s.perform es).cfg = s.cfg := s.consumeMany_cfg _
@[simp] theorem State.perform_rom : (s.perform es).rom = s.rom := s.consumeMany_rom _

/-- The answers to come after these actions. -/
theorem State.perform_answerAt (k : Nat) : (s.perform es).answerAt k = s.answerAt (answersUsed es + k) :=
  (State.answerAt_congr k (s.perform es) (s.consumeMany _) rfl rfl).trans (s.consumeMany_answerAt _ k)

/-- Actions and further actions. -/
theorem State.perform_perform (fs : List Event) : (s.perform es).perform fs = s.perform (es ++ fs) := by
  have hanswers : (s.perform es).consumeMany (answersUsed fs) = ((s.consumeMany (answersUsed es)).consumeMany
      (answersUsed fs)).setHistory (latchOf .dc s.dcLatch es) (latchOf .rst s.rstLatch es) (s.trace ++ es) :=
    State.consumeMany_comm (f := fun t => t.setHistory _ _ _) (fun _ => rfl) _ _
  rw [State.perform, hanswers, State.consumeMany_add]
  simp [State.perform, State.setHistory]

/-- Actions neither write nor read `st` and `upc`. -/
theorem State.setControl_perform (x : CtrlState) (n : Nat) :
    (s.setControl x n).perform es = (s.perform es).setControl x n := by
  rw [State.perform, State.consumeMany_comm (f := fun t => t.setControl x n) (fun _ => rfl)]
  rfl

end

/-! ### The state an operation has reached -/

/-- The state of the operation begun in `s` when the steps `done` of its script have been run, `es` were their actions, and
`st` is `x`. -/
def State.reached (s : State) (x : CtrlState) (done : List Instr) (es : List Event) : State :=
  (s.perform es).setControl x done.length

section
variable (s : State) (x : CtrlState) (done : List Instr) (es : List Event)

@[simp] theorem State.reached_cur : (s.reached x done es).cur = s.cur := s.perform_cur es
@[simp] theorem State.reached_upc : (s.reached x done es).upc = done.length := rfl
@[simp] theorem State.reached_polls : (s.reached x done es).polls = s.polls := s.perform_polls es
@[simp] theorem State.reached_cfg : (s.reached x done es).cfg = s.cfg := s.perform_cfg es
@[simp] theorem State.reached_rom : (s.reached x done es).rom = s.rom := s.perform_rom es

/-- The answers to come after its actions. -/
@[simp] theorem State.reached_answerAt (k : Nat) : (s.reached x done es).answerAt k = s.answerAt (answersUsed es + k) :=
  (State.answerAt_congr k (s.reached x done es) (s.perform es) rfl rfl).trans (s.perform_answerAt es k)

/-- At the start of its script nothing has been run. -/
theorem State.reached_nil (hu : s.upc = 0) : s.reached s.st [] [] = s := by
  have hfields : s.reached s.st [] [] = { s with upc := 0, trace := s.trace ++ [] } := rfl
  rw [hfields, ← hu, List.append_nil]

/-- One more step, and its actions. -/
theorem State.reached_perform (i : Instr) (fs : List Event) :
    { (s.reached x done es).perform fs with upc := (s.reached x done es).upc + 1 } =
      s.reached x (done ++ [i]) (es ++ fs) := by
  rw [State.reached, State.setControl_perform, State.perform_perform, State.reached, List.length_append]
  rfl

end

/-! ### Steps whose actions are answered ok -/

/-- The actions of a step that sends one byte, drives a pin or delays, when they are answered ok (R240 to R242, R247). -/
inductive StepEvents (c : Config) : Instr → List Event → Prop
  | cmd (a : Byte) : StepEvents c (.cmd a) (commandEvents c a)
  | dat (a : Byte) : StepEvents c (.dat a) (dataEvents c a)
  | pin (p : OutPin) (l : Level) : StepEvents c (.pin p l) [.setPin p l true]
  | dly (a : Byte) : StepEvents c (.dly a) [.delay a.toNat]

/-- The actions of such steps one after the other. -/
inductive StretchEvents (c : Config) : List Instr → List Event → Prop
  | nil : StretchEvents c [] []
  | cons {i : Instr} {is : List Instr} {es fs : List Event} (head : StepEvents c i es) (tail : StretchEvents c is fs) :
      StretchEvents c (i :: is) (es ++ fs)

theorem StretchEvents.append {c : Config} {is js : List Instr} {es fs : List Event} (h : StretchEvents c is es)
    (h' : StretchEvents c js fs) : StretchEvents c (is ++ js) (es ++ fs) := by
  induction h with
  | nil => exact h'
  | cons head _ ih => rw [List.append_assoc]; exact .cons head ih

theorem State.okFrom_add {s : State} {k m n : Nat} (h : s.okFrom k (m + n)) : s.okFrom k m ∧ s.okFrom (k + m) n :=
  ⟨fun i hi => h i (by omega), fun i hi => by rw [Nat.add_assoc]; exact h (m + i) (by omega)⟩

@[simp] theorem answersUsed_waitEvents (c : Config) (j : Nat) : answersUsed (waitEvents c j) = j + 1 := by
  simp [answersUsed, waitEvents, List.countP_cons, Event.answered]

@[simp] theorem latchOf_waitEvents (c : Config) (p : OutPin) (l : Option Level) (j : Nat) :
    latchOf p l (waitEvents c j) = l := by
  induction j with
  | zero => rfl
  | succ j ih => exact ih

section
variable {op : HostOp} {s : State} {i : Instr} {es : List Event}

/-- With its own scripts the block executes the step of the script at `upc` (R25, R66). -/
theorem step_of_script (hrom : s.romIntact) (hc : s.cur = some op) (hi : (script s.cfg op)[s.upc]? = some i) :
    step s = exec i s := by
  have hw : fetchWord s op = some (encode s.cfg.ops i) := by rw [fetchWord_of_romIntact hrom, hi]; rfl
  exact stepRunsScriptWordAtUpc op _ i s hc hw (decode_encode_scriptStep _ (scriptAt_of_getElem? hi).scriptStep)

/-- A step whose actions are answered ok has performed them, and `upc` advances. -/
theorem exec_performs (hc : s.cur = some op) (h : StepEvents s.cfg i es) (hok : s.okFrom 0 (answersUsed es)) :
    exec i s = .next { s.perform es with upc := s.upc + 1 } := by
  cases h with
  | cmd a => exact exec_byte_sent hc rfl (hok 0 Nat.two_pos) (hok 1 Nat.one_lt_two)
  | dat a => exact exec_byte_sent hc rfl (hok 0 Nat.two_pos) (hok 1 Nat.one_lt_two)
  | pin p l =>
    have hpin : exec (.pin p l) s = .next (settle (setPin op p l s)) := runStep_some hc _
    rw [hpin, setPin_ok op p l (hok 0 Nat.one_pos)]
    cases p <;> rfl
  | dly a => exact runStep_some hc _

/-- A wait that returns after `j` busy readings has performed its actions, and `upc` advances. -/
theorem runSteps_wait {j : Nat} (hc : s.cur = some op) (hw : fetchWord s op = some (.uop 0x400#12)) (hp : s.polls = 0)
    (hbusy : s.busyFrom 0 j) (hidle : s.idleAt j) (hm : ∀ m, s.cfg.maxPolls = some m → j < m) :
    runSteps (j + 1) s = .next { s.perform (waitEvents s.cfg j) with upc := s.upc + 1 } := by
  rw [waitReturnsAfterBusyReadings j op s hc hw hbusy hidle (by simpa [hp] using hm)]
  simp [State.perform, State.setHistory, hp]

end

/-! ### Running an operation -/

/-- The premises under which the operation `op` runs from `s`: it is in progress, with the block's own scripts. -/
structure State.Runs (s : State) (op : HostOp) : Prop where
  rom : s.romIntact
  cur : s.cur = some op
  polls : s.polls = 0

/-- In `k` steps the operation begun in `s` comes to where `done` of its script is run. -/
def State.Reaches (s : State) (k : Nat) (x : CtrlState) (done : List Instr) (es : List Event) : Prop :=
  runSteps k s = .next (s.reached x done es)

section
variable {op : HostOp} {s : State} {k : Nat} {x : CtrlState} {done is : List Instr} {es fs : List Event}

/-- The operation runs on from every place it reaches. -/
theorem State.Runs.reached (hs : s.Runs op) : (s.reached x done es).Runs op where
  rom := by rw [State.romIntact, State.reached_rom, State.reached_cfg]; exact hs.rom
  cur := (s.reached_cur x done es).trans hs.cur
  polls := (s.reached_polls x done es).trans hs.polls

/-- A script that begins with `done` and `is` begins with `done`. -/
theorem script_begins {c : Config} (h : done ++ is <+: script c op) : done <+: script c op :=
  List.IsPrefix.trans ⟨is, rfl⟩ h

/-- The word at the place reached is the script's next one. -/
theorem getElem?_script_reached {i : Instr} (hscript : done ++ [i] <+: script s.cfg op) :
    (script (s.reached x done es).cfg op)[(s.reached x done es).upc]? = some i := by
  obtain ⟨rest, hrest⟩ := hscript
  simp [← hrest]

theorem State.Runs.step_reached (hs : s.Runs op) {i : Instr} (hscript : done ++ [i] <+: script s.cfg op) :
    step (s.reached x done es) = exec i (s.reached x done es) :=
  step_of_script hs.reached.rom hs.reached.cur (getElem?_script_reached hscript)

theorem State.okFrom_reached (h : s.okFrom (answersUsed es) (answersUsed fs)) :
    (s.reached x done es).okFrom 0 (answersUsed fs) := by
  intro i hi
  rw [State.reached_answerAt, Nat.zero_add]
  exact h i hi

theorem State.reaches_start (hu : s.upc = 0) : s.Reaches 0 s.st [] [] := congrArg _ (s.reached_nil hu).symm

/-- SETST writes `st` (R246). -/
theorem State.Reaches.setst (h : s.Reaches k x done es) (hs : s.Runs op) (y : CtrlState)
    (hscript : done ++ [.setst y] <+: script s.cfg op) : s.Reaches (k + 1) y (done ++ [.setst y]) es := by
  have hexec : exec (.setst y) (s.reached x done es) = .next (settle (.done { s.reached x done es with st := y })) :=
    runStep_some hs.reached.cur fun _ t => .done { t with st := y }
  refine runSteps_succ_of_step h ((hs.step_reached hscript).trans (hexec.trans ?_))
  simp [State.reached, State.setControl]

/-- A stretch whose actions are answered ok is run step by step. -/
theorem State.Reaches.stretch (h : s.Reaches k x done es) (hs : s.Runs op) (his : StretchEvents s.cfg is fs)
    (hscript : done ++ is <+: script s.cfg op) (hok : s.okFrom (answersUsed es) (answersUsed fs)) :
    s.Reaches (k + is.length) x (done ++ is) (es ++ fs) := by
  induction his generalizing k done es with
  | nil => simpa using h
  | @cons i is es' fs head tail ih =>
    rw [answersUsed_append] at hok
    obtain ⟨hhead, htail⟩ := State.okFrom_add hok
    rw [List.append_cons] at hscript ⊢
    have hstep : step (s.reached x done es) = .next (s.reached x (done ++ [i]) (es ++ es')) := by
      rw [hs.step_reached (script_begins hscript), exec_performs hs.reached.cur (by simpa using head)
        (State.okFrom_reached hhead), State.reached_perform]
    have hrun := ih (runSteps_succ_of_step h hstep) hscript (by simpa using htail)
    simpa [Nat.add_assoc, Nat.add_comm 1] using hrun

/-- WAIT returns after `j` busy readings (R143). -/
theorem State.Reaches.wait {j : Nat} (h : s.Reaches k x done es) (hs : s.Runs op)
    (hscript : done ++ [.wait] <+: script s.cfg op) (hbusy : s.busyFrom (answersUsed es) j)
    (hidle : s.idleAt (answersUsed es + j)) (hm : ∀ m, s.cfg.maxPolls = some m → j < m) :
    s.Reaches (k + (j + 1)) x (done ++ [.wait]) (es ++ waitEvents s.cfg j) := by
  have hw : fetchWord (s.reached x done es) op = some (.uop 0x400#12) := by
    rw [fetchWord_of_romIntact hs.reached.rom, getElem?_script_reached hscript]
    rfl
  refine (runSteps_add h _).trans ((runSteps_wait hs.reached.cur hw (by simp [hs.polls]) ?_ ?_
    (by simpa using hm)).trans ?_)
  · simpa [State.busyFrom] using hbusy
  · simpa [State.idleAt] using hidle
  · rw [State.reached_perform, State.reached_cfg]

/-- END completes the operation (R249). -/
theorem State.Reaches.finish (h : s.Reaches k x done es) (hs : s.Runs op) (hscript : done ++ [.endOp] <+: script s.cfg op) :
    runSteps (k + 1) s = .next { s.reached x done es with res := .ok, cur := none, upc := 0 } :=
  runSteps_succ_of_step h ((hs.step_reached hscript).trans (runStep_some hs.reached.cur _))

end

/-! ### Accepting an operation -/

section
variable {s : State} {r : HostReq} {rest : List HostReq}

/-- The block when it has accepted the operation `op` from the request `r` (R232). -/
def State.accepted (s : State) (op : HostOp) (r : HostReq) (rest : List HostReq) : State :=
  { s with hostq := rest, bm := r.bm.getD s.bm, cur := some op, upc := 0, polls := 0 }

/-- Acceptance uses up no answer. -/
@[simp] theorem State.accepted_answerAt (op : HostOp) (k : Nat) : (s.accepted op r rest).answerAt k = s.answerAt k :=
  State.answerAt_congr k (s.accepted op r rest) s rfl rfl

@[simp] theorem State.accepted_cfg (op : HostOp) : (s.accepted op r rest).cfg = s.cfg := rfl

/-- A request for an operation that may start is accepted in one step (R232). -/
theorem step_accepts {op : HostOp} (hc : s.cur = none) (hq : s.hostq = r :: rest) (hr : r.code = hostCode op)
    (hm : mayStart op s.st = true) : step s = .next (s.accepted op r rest) := by
  obtain ⟨hrequest, _⟩ := idleStepRunsOldestRequest s hc
  rw [hrequest op r rest hq hr, exec_ofHostOp, issue_accepted (by exact hc) (by exact hm)]
  rfl

/-- What an operation that has ended leaves, from its acceptance on. -/
theorem State.accepted_reached_ended (op : HostOp) (x : CtrlState) (done : List Instr) (es : List Event) :
    { (s.accepted op r rest).reached x done es with res := .ok, cur := none, upc := 0 } =
      { s.consumeMany (answersUsed es) with
        st := x
        cur := none
        upc := 0
        polls := 0
        dcLatch := latchOf .dc s.dcLatch es
        rstLatch := latchOf .rst s.rstLatch es
        res := .ok
        trace := s.trace ++ es
        hostq := rest
        bm := r.bm.getD s.bm } := by
  have hanswers : (s.accepted op r rest).consumeMany (answersUsed es) = { s.consumeMany (answersUsed es) with
      hostq := rest, bm := r.bm.getD s.bm, cur := some op, upc := 0, polls := 0 } :=
    State.consumeMany_comm (f := fun t => { t with
      hostq := rest, bm := r.bm.getD s.bm, cur := some op, upc := 0, polls := 0 }) (fun _ => rfl) s _
  rw [State.reached, State.perform, hanswers]
  rfl

end

end Sys2Proof.Machine
end

section
/-! SUPPORT. Register commands one after the other (spec R83, R101): the script steps that send them, the actions these perform,
the frames the panel receives, and that the frames read back as the commands (R92). -/

namespace Sys2Proof.Machine

/-! ### Steps, actions and frames of a register command -/

/-- The script steps of a register command (R101). -/
def regCommandSteps (K : Opcodes) (r : RegCommand) : List Instr := reg (K.byte r.1) r.2

/-- The actions of a register command (R83). -/
def regCommandEvents (c : Config) (r : RegCommand) : List Event := regEvents c (c.ops.byte r.1) r.2

/-- The frames of a register command: its command frame, then its payload's data frames (R83). -/
def regCommandFrames (K : Opcodes) (r : RegCommand) : List Frame :=
  { sel := some false, b := K.byte r.1 } :: r.2.map fun b => { sel := some true, b := b }

/-- How many frames these register commands are: one per opcode and payload byte. -/
def frameCount (rs : List RegCommand) : Nat := (rs.map fun r => r.2.length + 1).sum

/-! ### One register command -/

theorem stretchEvents_reg (c : Config) (op : Byte) (p : List Byte) : StretchEvents c (reg op p) (regEvents c op p) := by
  have hpayload : StretchEvents c (p.map .dat) (p.flatMap (dataEvents c)) := by
    induction p with
    | nil => exact .nil
    | cons b p ih => exact .cons (.dat b) ih
  exact .cons (.cmd op) hpayload

theorem answersUsed_regEvents (c : Config) (op : Byte) (p : List Byte) :
    answersUsed (regEvents c op p) = 2 * (p.length + 1) := by
  have hpayload : answersUsed (p.flatMap (dataEvents c)) = 2 * p.length := by
    induction p with
    | nil => rfl
    | cons b p ih =>
      rw [List.flatMap_cons, answersUsed_append, ih, List.length_cons, Nat.mul_succ, Nat.add_comm]
      rfl
  rw [regEvents, answersUsed_append, hpayload, Nat.mul_succ, Nat.add_comm]
  rfl

theorem latchOf_rst_regEvents (c : Config) (l : Option Level) (op : Byte) (p : List Byte) :
    latchOf .rst l (regEvents c op p) = l := by
  have hpayload : latchOf .rst l (p.flatMap (dataEvents c)) = l := by
    induction p with
    | nil => rfl
    | cons b p ih => exact ih
  exact hpayload

/-- DC stays where the last byte of the command needed it. -/
theorem latchOf_dc_regEvents (c : Config) (l : Option Level) (op : Byte) (p : List Byte) :
    latchOf .dc l (regEvents c op p) = some (if p = [] then c.cmdLevel else c.dataLevel) := by
  have hpayload : ∀ m, latchOf .dc (some m) (p.flatMap (dataEvents c)) = some (if p = [] then m else c.dataLevel) := by
    induction p with
    | nil => exact fun _ => rfl
    | cons b p ih => exact fun _ => (ih c.dataLevel).trans (by simp)
  exact hpayload c.cmdLevel

theorem framesFrom_regCommandEvents (c : Config) (got : Nat → Bool) (n : Nat) (sel : Option Bool) (r : RegCommand) :
    framesFrom c got n sel (regCommandEvents c r) = regCommandFrames c.ops r := by
  simpa [framesFrom, regCommandEvents, regCommandFrames] using framesFrom_regEvents c got n sel (c.ops.byte r.1) r.2 []

theorem splitCommands_data (K : Opcodes) (p : List Byte) {fs : List Frame} {ds : List Byte} {rs : List RegCommand}
    (h : splitCommands K fs = some (ds, rs)) :
    splitCommands K (p.map (fun b => { sel := some true, b := b }) ++ fs) = some (p ++ ds, rs) := by
  induction p with
  | nil => exact h
  | cons b p ih => simp [splitCommands, ih]

/-! ### Register commands in sequence -/

section
variable (c : Config) (rs : List RegCommand)

theorem stretchEvents_flatMap :
    StretchEvents c (rs.flatMap (regCommandSteps c.ops)) (rs.flatMap (regCommandEvents c)) := by
  induction rs with
  | nil => exact .nil
  | cons r rs ih => exact (stretchEvents_reg c _ r.2).append ih

theorem length_flatMap_regCommandSteps (K : Opcodes) : (rs.flatMap (regCommandSteps K)).length = frameCount rs := by
  simp [List.length_flatMap, frameCount, regCommandSteps, reg]

theorem answersUsed_flatMap : answersUsed (rs.flatMap (regCommandEvents c)) = 2 * frameCount rs := by
  induction rs with
  | nil => rfl
  | cons r rs ih =>
    rw [List.flatMap_cons, answersUsed_append, ih, regCommandEvents, answersUsed_regEvents, ← Nat.mul_add]
    rfl

theorem latchOf_rst_flatMap (l : Option Level) : latchOf .rst l (rs.flatMap (regCommandEvents c)) = l := by
  induction rs with
  | nil => rfl
  | cons r rs ih => rw [List.flatMap_cons, latchOf_append, regCommandEvents, latchOf_rst_regEvents, ih]

theorem framesFrom_flatMap (got : Nat → Bool) (n : Nat) (sel : Option Bool) :
    framesFrom c got n sel (rs.flatMap (regCommandEvents c)) = rs.flatMap (regCommandFrames c.ops) := by
  induction rs generalizing n sel with
  | nil => rfl
  | cons r rs ih => rw [List.flatMap_cons, framesFrom_append, framesFrom_regCommandEvents, ih, List.flatMap_cons]

/-- With distinct opcodes the frames read back as the commands (R92, R93). -/
theorem regCommands_flatMap {K : Opcodes} (h : K.distinct = true) :
    regCommands K (rs.flatMap (regCommandFrames K)) = some rs := by
  have hsplit : splitCommands K (rs.flatMap (regCommandFrames K)) = some ([], rs) := by
    induction rs with
    | nil => rfl
    | cons r rs ih => simp [regCommandFrames, splitCommands, splitCommands_data K r.2 ih, opNameOf_byte h]
  rw [regCommands, hsplit]

end

end Sys2Proof.Machine
end

section
/-! PROOFS. INITIALIZE (spec R160 to R177, R233): its run from acceptance to END, the frames the run adds, and that no other
operation drives RST. -/

namespace Sys2Proof.Machine

/-! ### Only INITIALIZE drives RST -/

theorem pin_notMem_scriptBody {c : Config} {op : HostOp} (h : op ≠ .init) (p : OutPin) (l : Level) :
    .pin p l ∉ scriptBody c op := by
  cases op
  case init => exact absurd rfl h
  case render | clear => simp [scriptBody, sendFrameAndRefresh]
  case sleep => simp [scriptBody, reg]

/-- Only the script of INITIALIZE holds a PIN (R161). -/
theorem ScriptAt.pin_init {c : Config} {op : HostOp} {n : Nat} {p : OutPin} {l : Level} (h : ScriptAt c op n (.pin p l)) :
    op = .init := by
  cases h with
  | body _ _ _ hi => exact by_contra fun hop => pin_notMem_scriptBody hop p l hi

/-- Settles O36: only a PIN RST writes the latch (`ran_rstLatch`), and only INITIALIZE's script holds one. -/
theorem rstDrivenOnlyByInitialize : Obligations.RstDrivenOnlyByInitialize := by
  intro s t hs h hinit
  rcases step_cases h with ⟨op, w, i, hc, hw, hd, hr⟩ | ⟨_, _, rfl⟩ | ⟨op, r, rest, _, _, _, ⟨_, rfl⟩ | ⟨_, rfl⟩⟩
  · rcases ran_rstLatch hr with hsame | ⟨l, rfl⟩
    · exact hsame
    · exact absurd (hc.trans (congrArg some (scriptAt_of_fetchWord hs.rom hw hd).pin_init)) hinit
  · rfl
  · rfl
  · rfl

/-! ### INITIALIZE's register commands -/

/-- The register commands of INITIALIZE up to its wait (R164 to R167). -/
def initCommandsBefore (c : Config) : List RegCommand :=
  [(.powerSetting, c.pay.powerSetting), (.panelSetting, c.pay.panelSetting),
    (.boosterSoftStart, c.pay.boosterSoftStart), (.powerOn, [])]

/-- The register commands of INITIALIZE after its wait (R168 to R177). -/
def initCommandsAfter (c : Config) : List RegCommand :=
  [(.pllControl, c.pay.pllControl), (.temperatureCalibration, c.pay.temperatureCalibration),
    (.vcomAndDataIntervalSetting, c.pay.vcomAndDataInterval), (.tconSetting, c.pay.tconSetting),
    (.tconResolution, [0x02#8, 0x80#8, 0x01#8, 0x80#8]), (.vcmDcSetting, c.pay.vcmDcSetting),
    (.flashMode, c.pay.flashMode)]

/-- The script steps of INITIALIZE between its first SETST and its wait. -/
def initStepsBefore (c : Config) : List Instr := resetPulse ++ (initCommandsBefore c).flatMap (regCommandSteps c.ops)

/-- The script steps of INITIALIZE between its wait and its last SETST. -/
def initStepsAfter (c : Config) : List Instr := (initCommandsAfter c).flatMap (regCommandSteps c.ops)

section
variable (c : Config)

theorem script_init : script c .init =
    [.setst .uninitialized] ++ initStepsBefore c ++ [.wait] ++ initStepsAfter c ++ [.setst .ready, .endOp] := by
  have hres : resPayload = [0x02#8, 0x80#8, 0x01#8, 0x80#8] := by decide
  simp [script, initBody, initStepsBefore, initStepsAfter, initCommandsBefore, initCommandsAfter, regCommandSteps,
    Opcodes.byte, hres]

theorem initEventsBefore_eq :
    initEventsBefore c = resetEvents ++ (initCommandsBefore c).flatMap (regCommandEvents c) := by
  simp [initEventsBefore, initCommandsBefore, regCommandEvents, Opcodes.byte, regEvents]

theorem initEventsAfter_eq : initEventsAfter c = (initCommandsAfter c).flatMap (regCommandEvents c) := by
  simp [initEventsAfter, initCommandsAfter, regCommandEvents, Opcodes.byte]

theorem frameCount_initCommandsBefore : frameCount (initCommandsBefore c) = initFramesBefore c := by
  simp [frameCount, initCommandsBefore, initFramesBefore]; omega

theorem frameCount_initCommandsAfter : frameCount (initCommandsAfter c) = initFramesAfter c := by
  simp [frameCount, initCommandsAfter, initFramesAfter]; omega

theorem stretchEvents_initStepsBefore : StretchEvents c (initStepsBefore c) (initEventsBefore c) := by
  have hpulse : StretchEvents c resetPulse resetEvents :=
    .cons (.pin .rst .high) (.cons (.dly resetHoldMs) (.cons (.pin .rst .low) (.cons (.dly resetHoldMs)
      (.cons (.pin .rst .high) (.cons (.dly resetHoldMs) .nil)))))
  rw [initEventsBefore_eq]
  exact hpulse.append (stretchEvents_flatMap c _)

theorem stretchEvents_initStepsAfter : StretchEvents c (initStepsAfter c) (initEventsAfter c) := by
  rw [initEventsAfter_eq]
  exact stretchEvents_flatMap c _

theorem length_initStepsBefore : (initStepsBefore c).length = 6 + initFramesBefore c := by
  rw [initStepsBefore, List.length_append, length_flatMap_regCommandSteps, frameCount_initCommandsBefore]
  rfl

theorem length_initStepsAfter : (initStepsAfter c).length = initFramesAfter c := by
  rw [initStepsAfter, length_flatMap_regCommandSteps, frameCount_initCommandsAfter]

theorem answersUsed_initEventsBefore : answersUsed (initEventsBefore c) = 3 + 2 * initFramesBefore c := by
  rw [initEventsBefore_eq, answersUsed_append, answersUsed_flatMap, frameCount_initCommandsBefore]
  rfl

theorem answersUsed_initEventsAfter : answersUsed (initEventsAfter c) = 2 * initFramesAfter c := by
  rw [initEventsAfter_eq, answersUsed_flatMap, frameCount_initCommandsAfter]

/-- The answers used up when INITIALIZE's wait has returned. -/
theorem answersUsed_initEvents_wait (j : Nat) :
    answersUsed (initEventsBefore c ++ waitEvents c j) = 4 + 2 * initFramesBefore c + j := by
  rw [answersUsed_append, answersUsed_initEventsBefore, answersUsed_waitEvents]
  omega

/-- The actions of a successful INITIALIZE. -/
def initEvents (j : Nat) : List Event := initEventsBefore c ++ waitEvents c j ++ initEventsAfter c

theorem answersUsed_initEvents (j : Nat) :
    answersUsed (initEvents c j) = 4 + 2 * initFramesBefore c + j + 2 * initFramesAfter c := by
  rw [initEvents, answersUsed_append, answersUsed_initEvents_wait, answersUsed_initEventsAfter]

/-- INITIALIZE leaves RST high, where the reset pulse ended (R161). -/
theorem latchOf_rst_initEvents (l : Option Level) (j : Nat) : latchOf .rst l (initEvents c j) = some .high := by
  rw [initEvents, latchOf_append, latchOf_append, initEventsAfter_eq, latchOf_rst_flatMap, latchOf_waitEvents,
    initEventsBefore_eq, latchOf_append, latchOf_rst_flatMap]
  rfl

/-- INITIALIZE leaves DC where FLASH_MODE's last byte needed it (R177). -/
theorem latchOf_dc_initEvents (l : Option Level) (j : Nat) :
    latchOf .dc l (initEvents c j) = some (if c.pay.flashMode = [] then c.cmdLevel else c.dataLevel) := by
  rw [initEvents, initEventsAfter, latchOf_append, latchOf_append _ _ _ (regEvents c c.ops.flashMode c.pay.flashMode),
    latchOf_dc_regEvents]

/-- INITIALIZE adds the frames of its eleven register commands; the reset pulse and the wait add none (R36). -/
theorem framesFrom_initEvents (got : Nat → Bool) (n : Nat) (sel : Option Bool) (j : Nat) :
    framesFrom c got n sel (initEvents c j) =
      (initCommandsBefore c ++ initCommandsAfter c).flatMap (regCommandFrames c.ops) := by
  have hreset : ∀ n sel, framesFrom c got n sel resetEvents = [] := fun n sel => by
    simpa [framesFrom] using framesFrom_resetEvents c got n sel []
  have hwait : ∀ n sel, framesFrom c got n sel (waitEvents c j) = [] := fun n sel => by
    simpa [framesFrom] using framesFrom_waitEvents c got n sel j []
  rw [initEvents, initEventsBefore_eq, initEventsAfter_eq]
  simp only [framesFrom_append, framesFrom_flatMap, hreset, hwait, List.nil_append, List.append_nil, List.flatMap_append]

end

/-! ### The run of INITIALIZE -/

section
variable {s : State} {j : Nat} {r : HostReq} {rest : List HostReq}

/-- INITIALIZE from acceptance to END: SETST, the reset pulse and the commands up to POWER_ON, the wait, the commands after
it, SETST and END. -/
theorem State.InitLaunch.runSteps_eq (h : s.InitLaunch j r rest) :
    runSteps (11 + initFramesBefore s.cfg + initFramesAfter s.cfg + j) s =
      .next { s.consumeMany (answersUsed (initEvents s.cfg j)) with
        st := .ready
        cur := none
        upc := 0
        polls := 0
        dcLatch := latchOf .dc s.dcLatch (initEvents s.cfg j)
        rstLatch := latchOf .rst s.rstLatch (initEvents s.cfg j)
        res := .ok
        trace := s.trace ++ initEvents s.cfg j
        hostq := rest
        bm := r.bm.getD s.bm } := by
  obtain ⟨hrom, hidle, hasked, hcode, hokBefore, hbusy, hidleRead, hokAfter, hbound⟩ := h
  have hs : (s.accepted .init r rest).Runs .init := ⟨hrom, rfl, rfl⟩
  have hend : [.setst .uninitialized] ++ initStepsBefore s.cfg ++ [.wait] ++ initStepsAfter s.cfg ++ [.setst .ready] ++
      [.endOp] <+: script s.cfg .init := by simp [script_init]
  have hsetReady := script_begins hend
  have hafter := script_begins hsetReady
  have hwait := script_begins hafter
  have hbefore := script_begins hwait
  have hsetUninit := script_begins hbefore
  have hrun := (State.reaches_start (s := s.accepted .init r rest) rfl).setst hs .uninitialized hsetUninit
    |>.stretch hs (stretchEvents_initStepsBefore s.cfg) hbefore
      (by simpa [State.okFrom, answersUsed_initEventsBefore] using hokBefore)
    |>.wait (j := j) hs hwait
      (by simpa [State.busyFrom, answersUsed_initEventsBefore] using hbusy)
      (by simpa [State.idleAt, answersUsed_initEventsBefore] using hidleRead) hbound
    |>.stretch hs (stretchEvents_initStepsAfter s.cfg) hafter
      (by
        rw [List.nil_append, State.accepted_cfg, answersUsed_initEvents_wait, answersUsed_initEventsAfter]
        simpa [State.okFrom] using hokAfter)
    |>.setst hs .ready hsetReady
    |>.finish hs hend
  have hsteps : 11 + initFramesBefore s.cfg + initFramesAfter s.cfg + j =
      0 + 1 + (initStepsBefore s.cfg).length + (j + 1) + (initStepsAfter s.cfg).length + 1 + 1 + 1 := by
    rw [length_initStepsBefore, length_initStepsAfter]
    omega
  rw [hsteps, runSteps_succ (step_accepts hidle hasked hcode rfl)]
  exact hrun.trans (congrArg _ (State.accepted_reached_ended _ _ _ _))

/-- The frames a successful INITIALIZE adds are those of its eleven register commands, whatever trace came before. -/
theorem State.InitLaunch.frames (h : s.InitLaunch j r rest) :
    ∃ t, runSteps (11 + initFramesBefore s.cfg + initFramesAfter s.cfg + j) s = .next t ∧ t.cur = none ∧ t.st = .ready ∧
      ∀ got, framesOf s.cfg got t.trace = framesOf s.cfg got s.trace ++
        (initCommandsBefore s.cfg ++ initCommandsAfter s.cfg).flatMap (regCommandFrames s.cfg.ops) := by
  refine ⟨_, h.runSteps_eq, rfl, rfl, fun got => ?_⟩
  rw [framesOf_append, framesFrom_initEvents]

end

/-! ### The obligations -/

/-- Settles O42: the run's actions (`initEvents`) use up so many answers and leave the latches so. -/
theorem initializeRunsToReady : Obligations.InitializeRunsToReady := by
  intro j r rest s hrom hidle hasked hcode hokBefore hbusy hidleRead hokAfter hbound
  have hlaunch : s.InitLaunch j r rest := ⟨hrom, hidle, hasked, hcode, hokBefore, hbusy, hidleRead, hokAfter, hbound⟩
  rw [hlaunch.runSteps_eq, answersUsed_initEvents, latchOf_dc_initEvents, latchOf_rst_initEvents, initEvents,
    ← List.append_assoc, ← List.append_assoc]

/-- Settles O46: with distinct opcodes the frames read back as the commands they are the frames of. -/
theorem initializeFramesAreElevenRegisterCommands : Obligations.InitializeFramesAreElevenRegisterCommands := by
  intro j r rest s hlaunch hdistinct
  obtain ⟨t, hrun, hcur, hst, hframes⟩ := hlaunch.frames
  exact ⟨t, _, hrun, hcur, hst, hframes, regCommands_flatMap _ hdistinct⟩

/-- Settles O47: the frames of the eleven register commands with the default parameters, written out. -/
theorem initializeDefaultFrames : Obligations.InitializeDefaultFrames := by
  intro j r rest s hlaunch hcfg
  obtain ⟨t, hrun, hcur, hst, hframes⟩ := hlaunch.frames
  refine ⟨t, _, ?_, hcur, hst, hframes, ?_⟩
  · rw [hcfg] at hrun
    exact hrun
  · rw [hcfg]
    decide

end Sys2Proof.Machine
end

section
/-! PROOFS. The packer (spec R200 to R213): the threshold table, the lanes of a packed byte, the closed form read at the
pair of pixels an index stands for (R52), and the two loops of R206. -/

namespace Sys2Proof.Machine

/-! ### One byte from two pixels -/

theorem isBlack_iff (l : Byte) : isBlack l = true ↔ l.toNat < 64 := decide_eq_true_iff

theorem nibbleCode_eq (l : Byte) : nibbleCode l = if l.toNat < 64 then 0x0#4 else 0x3#4 := by
  simp only [nibbleCode, isBlack_iff, nibBlack, nibWhite]

section
variable {l r : Byte}

theorem nibbleCode_black (h : l.toNat < 64) : nibbleCode l = 0x0#4 := by rw [nibbleCode_eq, if_pos h]

theorem nibbleCode_white (h : 64 ≤ l.toNat) : nibbleCode l = 0x3#4 := by rw [nibbleCode_eq, if_neg (Nat.not_lt.mpr h)]

theorem pairByte_black_black (hl : l.toNat < 64) (hr : r.toNat < 64) : pairByte l r = 0x00#8 := by
  rw [pairByte, nibbleCode_black hl, nibbleCode_black hr]; rfl

theorem pairByte_black_white (hl : l.toNat < 64) (hr : 64 ≤ r.toNat) : pairByte l r = 0x03#8 := by
  rw [pairByte, nibbleCode_black hl, nibbleCode_white hr]; rfl

theorem pairByte_white_black (hl : 64 ≤ l.toNat) (hr : r.toNat < 64) : pairByte l r = 0x30#8 := by
  rw [pairByte, nibbleCode_white hl, nibbleCode_black hr]; rfl

theorem pairByte_white_white (hl : 64 ≤ l.toNat) (hr : 64 ≤ r.toNat) : pairByte l r = 0x33#8 := by
  rw [pairByte, nibbleCode_white hl, nibbleCode_white hr]; rfl

end

@[simp] theorem highNibble_pairByte (l r : Byte) : highNibble (pairByte l r) = nibbleCode l := extract_append_high _ _

@[simp] theorem lowNibble_pairByte (l r : Byte) : lowNibble (pairByte l r) = nibbleCode r := extract_append_low _ _

/-- Joining two nibbles is adding: the low one fits below the shifted high one (R204). -/
theorem pairByte_toNat (l r : Byte) : (pairByte l r).toNat = (nibbleCode l).toNat * 16 + (nibbleCode r).toNat := by
  rw [pairByte, BitVec.toNat_append, ← Nat.shiftLeft_add_eq_or_of_lt (nibbleCode r).isLt, Nat.shiftLeft_eq]

/-- Settles O54: each of the four bytes of the table (R204) has its lemma above. -/
theorem pairByteFollowsThresholdTable : Obligations.PairByteFollowsThresholdTable := by
  refine ⟨fun l => ⟨fun hblack => ?_, fun hwhite => ?_⟩, fun l r => ?_⟩
  · exact ⟨(isBlack_iff l).mpr hblack, nibbleCode_black hblack⟩
  · exact ⟨Bool.eq_false_iff.mpr fun h => Nat.not_lt.mpr hwhite ((isBlack_iff l).mp h), nibbleCode_white hwhite⟩
  · exact ⟨pairByte_toNat l r, pairByte_black_black, pairByte_black_white, pairByte_white_black, pairByte_white_white⟩

/-- Settles O59: each nibble is the code of one pixel. -/
theorem packedNibblesAreIndependentLanes : Obligations.PackedNibblesAreIndependentLanes := by
  intro l l' r r'
  simp only [highNibble_pairByte, lowNibble_pairByte, nibbleCode_eq, and_self]

/-! ### The closed form -/

theorem fbIndex_two_mul (j y : Nat) : fbIndex (2 * j) y = y * 320 + j := by
  simp only [fbIndex, panelWidth]; omega

/-- The closed form at the index of a pair of pixels (R52). -/
theorem packedByte_row (bm : Bitmap) {j : Nat} (y : Nat) (hj : j < 320) :
    packedByte bm (y * 320 + j) = pairByte (lum bm (2 * j) y) (lum bm (2 * j + 1) y) := by
  have hcol : (y * 320 + j) % 320 = j := by omega
  have hrow : (y * 320 + j) / 320 = y := by omega
  rw [packedByte, show rowBytes = 320 from rfl, hcol, hrow]

/-- Every index of FB is that of a pair of pixels of the panel (R52). -/
theorem exists_pair_of_lt_fbLen {i : Nat} (hi : i < fbLen) : ∃ j y, j < 320 ∧ y < 384 ∧ i = y * 320 + j := by
  rw [fbLen_eq] at hi
  exact ⟨i % 320, i / 320, by omega, by omega, by omega⟩

section
variable {bm : Bitmap}

theorem fitsPanel_iff : fitsPanel bm = true ↔ bm.width = 640 ∧ bm.height = 384 := by
  simp only [fitsPanel, Bool.and_eq_true, beq_iff_eq, panelWidth, panelHeight]

theorem packBitmap_of_size (hw : bm.width = 640) (hh : bm.height = 384) :
    packBitmap bm = some ((List.range fbLen).map (packedByte bm)) := if_pos (fitsPanel_iff.mpr ⟨hw, hh⟩)

theorem packBitmap_eq_none (h : bm.width ≠ 640 ∨ bm.height ≠ 384) : packBitmap bm = none := by
  refine if_neg fun hfits => ?_
  have := fitsPanel_iff.mp hfits
  omega

/-- A bitmap whose pairs all give one byte packs to copies of it. -/
theorem packBitmap_eq_replicate {b : Byte} (hw : bm.width = 640) (hh : bm.height = 384)
    (h : ∀ j y, j < 320 → y < 384 → pairByte (lum bm (2 * j) y) (lum bm (2 * j + 1) y) = b) :
    packBitmap bm = some (List.replicate 122880 b) := by
  rw [packBitmap_of_size hw hh, Option.some_inj, List.eq_replicate_iff, List.length_map, List.length_range]
  refine ⟨fbLen_eq, fun c hc => ?_⟩
  obtain ⟨i, hi, rfl⟩ := List.mem_map.mp hc
  obtain ⟨j, y, hj, hy, rfl⟩ := exists_pair_of_lt_fbLen (List.mem_range.mp hi)
  rw [packedByte_row bm y hj, h j y hj hy]

/-- The packed byte of a pair of pixels stands at the pair's index. -/
theorem getElem?_packed (bm : Bitmap) {j y : Nat} (hj : j < 320) (hy : y < 384) :
    ((List.range fbLen).map (packedByte bm))[y * 320 + j]? = some (pairByte (lum bm (2 * j) y) (lum bm (2 * j + 1) y)) := by
  have hi : y * 320 + j < fbLen := by rw [fbLen_eq]; omega
  rw [List.getElem?_map, List.getElem?_range hi, Option.map_some, packedByte_row bm y hj]

end

theorem legalNibble_iff (n : Nibble) : legalNibble n = true ↔ n = 0x0#4 ∨ n = 0x3#4 := by
  simp only [legalNibble, Bool.or_eq_true, beq_iff_eq, nibBlack, nibWhite]

/-- Settles O55: PACK's bytes are FB_LEN in number and legal whenever there are any. -/
theorem packYieldsLegalBytesOfFramebufferLength : Obligations.PackYieldsLegalBytesOfFramebufferLength := by
  refine fun bm => ⟨fun hw hh => ?_, packBitmap_eq_none⟩
  have hp := packBitmap_of_size hw hh
  refine ⟨_, hp, (packBitmap_length hp).trans fbLen_eq, fun b hb => ?_⟩
  obtain ⟨hhigh, hlow⟩ := Bool.and_eq_true_iff.mp (legalByte_of_mem_packBitmap hp hb)
  exact ⟨(legalNibble_iff _).mp hhigh, (legalNibble_iff _).mp hlow⟩

/-- Settles O56: every pair of an all-white bitmap gives `0x33`, of an all-black one `0x00`. -/
theorem packOfUniformBitmap : Obligations.PackOfUniformBitmap := by
  refine fun bm hw hh => ⟨fun hwhite => ?_, fun hblack => ?_⟩
  · refine packBitmap_eq_replicate hw hh fun j y hj hy => ?_
    exact pairByte_white_white (hwhite _ y (by omega) hy) (hwhite _ y (by omega) hy)
  · refine packBitmap_eq_replicate hw hh fun j y hj hy => ?_
    exact pairByte_black_black (hblack _ y (by omega) hy) (hblack _ y (by omega) hy)

/-- Settles O57: the black pixel is the left one of its pair if `x` is even and the right one if it is odd; every other
pair is white. -/
theorem singleBlackPixelFlipsOneNibble : Obligations.SingleBlackPixelFlipsOneNibble := by
  intro bm x y hw hh hx hy hblack hwhite
  refine ⟨_, packBitmap_of_size hw hh, ?_, fun i hi hne => ?_⟩
  · rw [show x / 2 + y * (640 / 2) = y * 320 + x / 2 by omega, getElem?_packed bm (by omega) hy, Option.some_inj]
    rcases Nat.mod_two_eq_zero_or_one x with heven | hodd
    · have hright := hwhite (x + 1) y (by omega) hy (by simp)
      rw [if_pos heven, show 2 * (x / 2) = x by omega]
      exact pairByte_black_white hblack hright
    · have hleft := hwhite (2 * (x / 2)) y (by omega) hy (by simp; omega)
      rw [if_neg (by omega), show 2 * (x / 2) + 1 = x by omega]
      exact pairByte_white_black hleft hblack
  · obtain ⟨j, y', hj, hy', rfl⟩ := exists_pair_of_lt_fbLen (fbLen_eq ▸ hi)
    have hother : ∀ x', x' / 2 = j → (x', y') ≠ (x, y) := by
      rintro x' hx' heq
      obtain ⟨rfl, rfl⟩ := Prod.mk.inj heq
      omega
    rw [getElem?_packed bm hj hy', Option.some_inj]
    exact pairByte_white_white (hwhite _ y' (by omega) hy' (hother _ (by omega)))
      (hwhite _ y' (by omega) hy' (hother _ (by omega)))

/-! ### The two loops -/

/-- Writing `f` at `n` addresses from `base` on, one after the other. -/
theorem Memory.read_foldl_write (f : Nat → Byte) (base n : Nat) (m : Memory) (i : Nat) :
    Memory.read ((List.range n).foldl (fun m j => Memory.write m (base + j) (f (base + j))) m) i =
      if base ≤ i ∧ i < base + n then some (f i) else Memory.read m i := by
  induction n with
  | zero => rw [if_neg (by omega)]; rfl
  | succ n ih =>
    rw [List.range_succ, List.foldl_append, List.foldl_cons, List.foldl_nil]
    by_cases hlast : i = base + n
    · rw [hlast, Memory.read_write_same, if_pos (by omega)]
    · rw [Memory.read_write_ne _ _ hlast, ih]
      exact if_congr (by omega) rfl rfl

/-- A row of the loop writes the closed form: the pair at `x = 2 * j` goes to the row's index `j`. -/
theorem packRow_eq (bm : Bitmap) (y : Nat) (out : Memory) : packRow bm y out =
    (List.range 320).foldl (fun m j => Memory.write m (y * 320 + j) (packedByte bm (y * 320 + j))) out := by
  refine List.foldl_ext _ _ _ fun m j hj => ?_
  rw [fbIndex_two_mul, packedByte_row bm y (List.mem_range.mp hj)]

/-- Row `y` of the loop writes the indices of that row and nothing else. -/
theorem read_packRow (bm : Bitmap) (y : Nat) (out : Memory) (i : Nat) :
    Memory.read (packRow bm y out) i = if i / 320 = y then some (packedByte bm i) else Memory.read out i := by
  rw [packRow_eq, Memory.read_foldl_write]
  exact if_congr (by omega) rfl rfl

/-- The first `n` rows of the loop write the indices of those rows and nothing else. -/
theorem read_packRows (bm : Bitmap) (n i : Nat) :
    Memory.read ((List.range n).foldl (fun m y => packRow bm y m) []) i =
      if i / 320 < n then some (packedByte bm i) else none := by
  induction n with
  | zero => rfl
  | succ n ih =>
    rw [List.range_succ, List.foldl_append, List.foldl_cons, List.foldl_nil, read_packRow, ih]
    by_cases hlast : i / 320 = n
    · rw [if_pos hlast, if_pos (by omega)]
    · rw [if_neg hlast]
      exact if_congr (by omega) rfl rfl

/-- Settles O58: FB_LEN is 384 rows of 320 indices. -/
theorem packLoopEqualsClosedForm : Obligations.PackLoopEqualsClosedForm := by
  intro bm i
  have hread : Memory.read (packLoop bm) i = if i / 320 < 384 then some (packedByte bm i) else none :=
    read_packRows bm panelHeight i
  rw [hread, fbLen_eq]
  exact ⟨fun hin => if_pos (by omega), fun hout => if_neg (by omega)⟩

end Sys2Proof.Machine
end

section
/-! SUPPORT. What the scripts hold (spec R233 to R236, R249), and what FB reads as once it is written in full. -/

namespace Sys2Proof.Machine

/-! ### What the scripts hold -/

section
variable {c : Config} {op : HostOp}

theorem scriptStep_of_mem_script {i : Instr} (h : i ∈ script c op) : i.scriptStep = true := by
  obtain ⟨n, hn⟩ := List.mem_iff_getElem?.mp h
  exact (scriptAt_of_getElem? hn).scriptStep

/-- The scripts drive RST only (R91). -/
theorem pin_eq_rst_of_mem_script {p : OutPin} {l : Level} (h : .pin p l ∈ script c op) : p = .rst :=
  beq_iff_eq.mp (scriptStep_of_mem_script h)

/-- The scripts delay 100 or 200 ms (R33). -/
theorem dly_of_mem_script {a : Byte} (h : .dly a ∈ script c op) : a = 100#8 ∨ a = 200#8 := by
  simpa [Instr.scriptStep] using scriptStep_of_mem_script h

/-- BURST is a step of RENDER and CLEAR only (R101, R234, R235). -/
theorem burst_mem_scriptBody (h : .burst ∈ scriptBody c op) : op = .render ∨ op = .clear := by
  cases op
  case init => simp [scriptBody, resetPulse, initBody, reg] at h
  case render => exact .inl rfl
  case clear => exact .inr rfl
  case sleep => simp [scriptBody, reg] at h

/-- Before a BURST stands the PACK or FILL its script begins with. -/
theorem ScriptAt.burst_after_start {n : Nat} (h : ScriptAt c op n .burst) :
    0 < n ∧ ((script c op)[0]? = some Instr.pack ∨ (script c op)[0]? = some (Instr.fill whiteByte)) := by
  cases h with
  | body _ _ _ hi hlo _ =>
    rcases burst_mem_scriptBody hi with rfl | rfl
    · exact ⟨hlo, .inl rfl⟩
    · exact ⟨hlo, .inr rfl⟩

/-- PACK is the first step of RENDER (R234). -/
theorem ScriptAt.pack_place {n : Nat} (h : ScriptAt c op n .pack) : op = .render ∧ n = 0 := by
  cases h with
  | renderStart => exact ⟨rfl, rfl⟩
  | body _ _ _ hi _ _ => cases transportStep_of_mem_scriptBody hi

/-- An instruction that is no transport step stands in a script's head and tail only. -/
theorem count_script {i : Instr} (hi : transportStep i = false) :
    (script c op).count i = (scriptHead op).count i + (scriptTail op).count i := by
  have hbody : (scriptBody c op).count i = 0 := List.count_eq_zero.mpr fun hmem => by
    rw [transportStep_of_mem_scriptBody hmem] at hi
    cases hi
  rw [script_eq, List.count_append, List.count_append, hbody, Nat.zero_add]

/-- A script is well-formed when it ends with its only END (R249). -/
theorem scriptWellFormed_append_endOp {is : List Instr} (hstep : ∀ i ∈ is, i.scriptStep = true)
    (hend : .endOp ∉ is) : scriptWellFormed (is ++ [.endOp]) = true := by
  induction is with
  | nil => rfl
  | cons i is ih =>
    obtain ⟨hi, his⟩ := List.forall_mem_cons.mp hstep
    rw [List.mem_cons, not_or] at hend
    obtain ⟨hne, hnotMem⟩ := hend
    have hcons : scriptWellFormed (i :: (is ++ [.endOp])) =
        (i.scriptStep && i != .endOp && scriptWellFormed (is ++ [.endOp])) := by cases is <;> rfl
    rw [List.cons_append, hcons, hi, ih his hnotMem, bne_iff_ne.mpr (Ne.symm hne)]
    rfl

end

/-! ### FB written in full -/

section
variable (m : Memory)

/-- Bytes written from index 0 stand before what was beyond them. -/
theorem Memory.writeBytes_zero (bs : List Byte) :
    Memory.writeBytes 0 bs m = Memory.cells 0 bs ++ m.filter fun c => decide (bs.length ≤ c.1) := by
  simp [Memory.writeBytes]

/-- Writing the same bytes once more changes nothing. -/
theorem Memory.writeBytes_zero_idem (bs : List Byte) :
    Memory.writeBytes 0 bs (Memory.writeBytes 0 bs m) = Memory.writeBytes 0 bs m := by
  have hcells : (Memory.cells 0 bs).filter (fun c => decide (bs.length ≤ c.1)) = [] :=
    List.filter_eq_nil_iff.mpr fun c hc => by
      obtain ⟨_, hlt, _⟩ := Memory.mem_cells bs 0 c hc
      simpa using hlt
  rw [Memory.writeBytes_zero _ bs, Memory.writeBytes_zero m bs, List.filter_append, hcells, List.nil_append,
    List.filter_filter]
  simp only [Bool.and_self]

end

section
variable (s : State) {out : List Byte} (hl : out.length = fbLen)
include hl

/-- Every index of FB reads as the byte stored there. -/
theorem State.read_storeFb {i : Nat} (hi : i < fbLen) : Memory.read (s.storeFb out).fb i = out[i]? := by
  simpa using Memory.read_writeBytes out 0 s.fb i (hl ▸ hi)

/-- Nothing is stored beyond FB_LEN. -/
theorem State.read_storeFb_beyond {i : Nat} (hi : fbLen ≤ i) :
    Memory.read (s.storeFb out).fb i = Memory.read s.fb i :=
  Memory.read_writeBytes_above out 0 s.fb i (by omega)

end

/-- FB holds the packed bytes once they are stored. -/
theorem State.read_storeFb_packed (s : State) (bm : Bitmap) {i : Nat} (hi : i < fbLen) :
    Memory.read (s.storeFb ((List.range fbLen).map (packedByte bm))).fb i = some (packedByte bm i) := by
  rw [State.read_storeFb s (by simp) hi, List.getElem?_map, List.getElem?_range hi, Option.map_some]

/-- FB holds one byte at every index once its copies are stored. -/
theorem State.read_storeFb_replicate (s : State) (v : Byte) {i : Nat} (hi : i < fbLen) :
    Memory.read (s.storeFb (List.replicate fbLen v)).fb i = some v := by
  rw [State.read_storeFb s List.length_replicate hi, List.getElem?_replicate_of_lt hi]

/-- Storing the same bytes in FB once more changes nothing. -/
theorem State.storeFb_storeFb (s : State) (bs : List Byte) : (s.storeFb bs).storeFb bs = s.storeFb bs := by
  simp only [State.storeFb, Memory.writeBytes_zero_idem]

/-- A byte of FB that was written is what BURST sends. -/
theorem State.fbBytes_getElem?_of_read {s : State} {i : Nat} {v : Byte} (hi : i < fbLen)
    (h : Memory.read s.fb i = some v) : s.fbBytes[i]? = some v := by
  rw [State.fbBytes_getElem? s i hi, State.fbByte, h, Option.getD_some]

end Sys2Proof.Machine
end

section
/-! PROOFS. The ten script steps one by one (spec R240 to R249), the acceptance of the public operations (R232 to R237),
and what the scripts are (R233 to R236, R249). -/

namespace Sys2Proof.Machine

/-! ### CMD and DAT -/

section
variable (c : Config) (got : Nat → Bool) (tr : List Event) (b : Byte)

/-- One `sendCommand` answered ok is one command frame (R36, R121). -/
theorem framesOf_commandEvents :
    framesOf c got (tr ++ commandEvents c b) = framesOf c got tr ++ [{ sel := some false, b := b }] := by
  rw [framesOf_append, ← List.append_nil (commandEvents c b), framesFrom_commandEvents]
  rfl

/-- One `sendData` answered ok is one data frame (R36, R122). -/
theorem framesOf_dataEvents :
    framesOf c got (tr ++ dataEvents c b) = framesOf c got tr ++ [{ sel := some true, b := b }] := by
  rw [framesOf_append, ← List.append_nil (dataEvents c b), framesFrom_dataEvents]
  rfl

end

/-- Settles O1: CMD sends its byte at the command level. -/
theorem cmdStepSendsOneCommandByte : Obligations.CmdStepSendsOneCommandByte := by
  refine ⟨fun _ _ => rfl, fun a op s hc => ?_⟩
  have hi : sendsByte s.cfg (.cmd a) = some (s.cfg.cmdLevel, a) := rfl
  exact ⟨exec_byte_sent hc hi, exec_byte_lost hc hi, exec_select_lost hc hi,
    fun got => framesOf_commandEvents s.cfg got s.trace a⟩

/-- Settles O2: DAT sends its byte at the data level. -/
theorem datStepSendsOneDataByte : Obligations.DatStepSendsOneDataByte := by
  refine ⟨fun _ _ => rfl, fun a op s hc => ?_⟩
  have hi : sendsByte s.cfg (.dat a) = some (s.cfg.dataLevel, a) := rfl
  exact ⟨exec_byte_sent hc hi, exec_byte_lost hc hi, exec_select_lost hc hi,
    fun got => framesOf_dataEvents s.cfg got s.trace a⟩

section
variable {op : HostOp} {s : State}

/-! ### BURST -/

theorem exec_burst (hc : s.cur = some op) : exec .burst s = .next (settle (sendDataBurst op s.fbBytes s)) :=
  runStep_some hc _

/-- Both actions answered ok: all of FB is sent (R123, R243). -/
theorem exec_burst_sent (hc : s.cur = some op) (h1 : s.answer.ok = true) (h2 : s.consume.answer.ok = true) :
    exec .burst s = .next { s.consume.consume with
      dcLatch := some s.cfg.dataLevel
      trace := s.trace ++ [.setPin .dc s.cfg.dataLevel true, .txBurst s.fbBytes none]
      upc := s.upc + 1 } := by
  rw [exec_burst hc, sendDataBurst, setPin_ok op .dc _ h1, andThen_done, txBurst_ok op _ (by simpa using h2),
    log_latch_consume_log, settle_done]
  rfl

/-- The burst answered fail: a proper prefix was delivered, the operation ends (R273). -/
theorem exec_burst_lost (hc : s.cur = some op) (h1 : s.answer.ok = true) (h2 : s.consume.answer.ok = false) :
    ∃ k, k < fbLen ∧ exec .burst s = .next (transportFailed op (.txBurst s.fbBytes) { s.consume.consume with
      dcLatch := some s.cfg.dataLevel
      trace := s.trace ++ [.setPin .dc s.cfg.dataLevel true, .txBurst s.fbBytes (some k)] }) := by
  refine ⟨deliveredPrefix s.consume.answer.sent s.fbBytes.length, ?_, ?_⟩
  · rw [State.fbBytes_length]
    exact (deliveredPrefix_lt _ fbLen).trans_eq (max_eq_right (by rw [fbLen_eq]; omega))
  · rw [exec_burst hc, sendDataBurst, setPin_ok op .dc _ h1, andThen_done, txBurst_fail op _ (by simpa using h2),
      log_latch_consume_log, transportFail_eq, settle_over]
    rfl

/-- The selection answered fail: no burst is attempted, the operation ends (R273). -/
theorem exec_burst_select_lost (hc : s.cur = some op) (h1 : s.answer.ok = false) :
    exec .burst s = .next (transportFailed op (.setPin .dc s.cfg.dataLevel) { s.consume with
      dcLatch := none
      trace := s.trace ++ [.setPin .dc s.cfg.dataLevel false] }) := by
  rw [exec_burst hc, sendDataBurst, setPin_fail op .dc _ h1, transportFail_eq, andThen_over, settle_over]
  rfl

/-! ### PIN -/

/-- The pin is driven and its latch holds the level (R240). -/
theorem exec_pin_driven (p : OutPin) (l : Level) (hc : s.cur = some op) (h : s.answer.ok = true) :
    exec (.pin p l) s = .next { (s.consume.log (.setPin p l true)).latch p (some l) with upc := s.upc + 1 } := by
  have hexec : exec (.pin p l) s = .next (settle (setPin op p l s)) := runStep_some hc _
  rw [hexec, setPin_ok op p l h, settle_done, State.latch_upc]
  rfl

/-- The pin's latch is unknown and the operation ends (R240, R273). -/
theorem exec_pin_lost (p : OutPin) (l : Level) (hc : s.cur = some op) (h : s.answer.ok = false) :
    exec (.pin p l) s =
      .next (transportFailed op (.setPin p l) ((s.consume.log (.setPin p l false)).latch p none)) := by
  have hexec : exec (.pin p l) s = .next (settle (setPin op p l s)) := runStep_some hc _
  rw [hexec, setPin_fail op p l h, transportFail_eq, settle_over]

/-! ### PACK and FILL -/

/-- PACK stores the packed bitmap in FB (R244). -/
theorem exec_pack_stores {out : List Byte} (hc : s.cur = some op) (h : packBitmap s.bm = some out) :
    exec .pack s = .next { s.storeFb out with upc := s.upc + 1 } := by
  have hexec : exec .pack s = .next (settle (packStep op s)) := runStep_some hc _
  rw [hexec, packStep, h]
  rfl

/-- PACK rejects a bitmap that does not pack (R201, R244). -/
theorem exec_pack_rejects (hc : s.cur = some op) (h : packBitmap s.bm = none) :
    exec .pack s = .next (raiseExc op (.wrongDimensions s.bm.width s.bm.height) s) := by
  have hexec : exec .pack s = .next (settle (packStep op s)) := runStep_some hc _
  rw [hexec, packStep, h]
  rfl

/-- FILL stores FB_LEN copies of its byte in FB (R245). -/
theorem exec_fill_stores (v : Byte) (hc : s.cur = some op) :
    exec (.fill v) s = .next { s.storeFb (List.replicate fbLen v) with upc := s.upc + 1 } :=
  runStep_some hc _

/-! ### WAIT -/

theorem exec_wait (hc : s.cur = some op) : exec .wait s = .next (settle (pollBusy op s)) := runStep_some hc _

/-- A failed reading of BUSY ends the operation (R272). -/
theorem pollBusy_fail (h : s.answer.ok = false) :
    pollBusy op s = .over (transportFailed op .readPin { s.consume with trace := s.trace ++ [.readPin none] }) := by
  rw [pollBusy, if_neg (by simp [h]), transportFail_eq]
  rfl

end

/-! ### The obligations on the steps -/

/-- Settles O3: BURST's script begins with a PACK or FILL, and its step has the three outcomes above. -/
theorem burstStepSendsWholeFramebuffer : Obligations.BurstStepSendsWholeFramebuffer := by
  refine ⟨fun _ => rfl, fun cfg op n hn => ?_, fun op s hc => ?_⟩
  · obtain ⟨hpos, hstart⟩ := (scriptAt_of_getElem? hn).burst_after_start
    exact ⟨0, hpos, hstart.imp_right fun hfill => ⟨whiteByte, hfill⟩⟩
  · exact ⟨s.fbBytes_length, fun _ _ hi hv => State.fbBytes_getElem?_of_read hi hv, exec_burst_sent hc,
      exec_burst_lost hc, exec_burst_select_lost hc⟩

/-- Settles O4: each pin has the two outcomes of one SetPin. -/
theorem pinStepDrivesPinAndLatch : Obligations.PinStepDrivesPinAndLatch := by
  refine ⟨fun _ => ⟨rfl, rfl, rfl, rfl⟩, fun _ _ _ _ => pin_eq_rst_of_mem_script, fun l op s hc => ⟨?_, ?_⟩⟩
  · exact fun hok => ⟨exec_pin_driven .rst l hc hok, exec_pin_driven .dc l hc hok⟩
  · exact fun hfail => ⟨exec_pin_lost .rst l hc hfail, exec_pin_lost .dc l hc hfail⟩

/-- Settles O5: a delay asks the transport for no answer. -/
theorem dlyStepOnlyDelays : Obligations.DlyStepOnlyDelays := by
  refine ⟨fun _ _ => rfl, fun cfg op a ha => ?_, fun a op s hc => runStep_some hc _⟩
  exact (dly_of_mem_script ha).imp (congrArg BitVec.toNat) (congrArg BitVec.toNat)

/-- Settles O6: what PACK writes is read back index by index, and a bitmap of another size does not pack. -/
theorem packStepPacksOrRejects : Obligations.PackStepPacksOrRejects := by
  refine ⟨fun _ => rfl, fun cfg op n => ⟨fun hn => (scriptAt_of_getElem? hn).pack_place, ?_⟩,
    fun op s hc => ⟨?_, ?_⟩⟩
  · rintro ⟨rfl, rfl⟩
    rfl
  · intro hw hh
    have hp := packBitmap_of_size hw hh
    exact ⟨_, exec_pack_stores hc hp, fun _ => s.read_storeFb_packed s.bm,
      fun _ => s.read_storeFb_beyond (packBitmap_length hp)⟩
  · exact fun hsize => exec_pack_rejects hc (packBitmap_eq_none hsize)

/-- Settles O7: what FILL writes is read back index by index. -/
theorem fillStepFillsFramebuffer : Obligations.FillStepFillsFramebuffer := by
  refine ⟨fun _ _ => rfl, fun v op s hc => ?_⟩
  exact ⟨_, exec_fill_stores v hc, fun _ => s.read_storeFb_replicate v,
    fun _ => s.read_storeFb_beyond List.length_replicate⟩

/-- Settles O8: a SETST stands in a script's head or tail only. -/
theorem setstStepWritesOnlySt : Obligations.SetstStepWritesOnlySt := by
  refine ⟨fun _ => ⟨rfl, rfl, rfl⟩, fun x op s hc => runStep_some hc fun _ t => .done { t with st := x },
    fun cfg x => ?_⟩
  simp only [count_script (i := .setst x) rfl]
  cases x <;> decide

/-- Settles O9: an END stands in a script's head or tail only. -/
theorem endStepCompletesOperation : Obligations.EndStepCompletesOperation := by
  refine ⟨fun _ => rfl, fun op s hc => runStep_some hc _, fun cfg op => ⟨?_, ?_⟩⟩
  · rw [script_eq, List.getLast?_append, List.getLast?_append]
    cases op <;> rfl
  · rw [count_script rfl]
    cases op <;> rfl

/-- Settles O10: the four outcomes of one reading of BUSY. -/
theorem waitStepIsOnePoll : Obligations.WaitStepIsOnePoll := by
  refine ⟨fun _ => rfl, fun op s hc => ?_⟩
  rw [exec_wait hc]
  refine ⟨fun hok hl => ?_, fun hok hl hm => ?_, fun m hok hl hb hm => ?_, fun hfail => ?_⟩
  · rw [pollBusy_idle hok hl]
    rfl
  · rw [pollBusy_again hok hl hm]
    rfl
  · rw [pollBusy_timeout hok hl hb hm]
    rfl
  · rw [pollBusy_fail hfail]
    rfl

/-! ### The obligations on acceptance -/

/-- Settles O14: INITIALIZE may start whatever `st` is. -/
theorem initializeAcceptedInEveryState : Obligations.InitializeAcceptedInEveryState :=
  fun _ hc => issue_accepted hc rfl

/-- Settles O15: in Ready every operation may start. -/
theorem renderClearSleepAcceptedInReady : Obligations.RenderClearSleepAcceptedInReady := by
  intro s hc hst
  have hmay : ∀ op, mayStart op s.st = true := fun op => by rw [hst]; cases op <;> rfl
  exact ⟨issue_accepted hc (hmay .render), issue_accepted hc (hmay .clear), issue_accepted hc (hmay .sleep)⟩

/-! ### The obligations on the scripts -/

/-- Settles O37: a script ends with its only END (`endStepCompletesOperation`), and its words are those of steps a script
may hold. -/
theorem scriptsAreWellFormed : Obligations.ScriptsAreWellFormed := by
  intro cfg op
  refine ⟨?_, fun n i hn => ?_⟩
  · obtain ⟨_, _, hends⟩ := endStepCompletesOperation
    obtain ⟨hlast, hcount⟩ := hends cfg op
    obtain ⟨is, his⟩ := List.getLast?_eq_some_iff.mp hlast
    rw [his, List.count_append, List.count_singleton_self, Nat.add_eq_right] at hcount
    have hnone : .endOp ∉ is := List.count_eq_zero.mp hcount
    have hstep : ∀ i ∈ is, i.scriptStep = true := fun i hi =>
      scriptStep_of_mem_script (c := cfg) (op := op) (by rw [his]; exact List.mem_append_left _ hi)
    rw [his]
    exact scriptWellFormed_append_endOp hstep hnone
  · refine ⟨encode cfg.ops i, ?_, decode_encode_scriptStep _ (scriptAt_of_getElem? hn).scriptStep⟩
    rw [ofConfig_words, List.getElem?_map, hn, Option.map_some]

/-- Settles O53: with the default parameters the scripts are fixed data. -/
theorem defaultScriptWords : Obligations.DefaultScriptWords := ⟨by decide, by decide, by decide, by decide⟩

end Sys2Proof.Machine
end

section
/-! PROOFS. RENDER, CLEAR and SLEEP (spec R101, R234 to R236): their runs from acceptance to END. -/

namespace Sys2Proof.Machine

/-! ### BURST in a run -/

section
variable {op : HostOp} {s : State} {k : Nat} {x : CtrlState} {done : List Instr} {es : List Event}

@[simp] theorem State.reached_fb : (s.reached x done es).fb = s.fb := s.consumeMany_fb _

/-- BURST answered ok has performed its actions, and `upc` advances (R243). -/
theorem exec_burst_performs (hc : s.cur = some op) (hok : s.okFrom 0 2) :
    exec .burst s = .next { s.perform (burstEvents s.cfg s.fbBytes) with upc := s.upc + 1 } :=
  exec_burst_sent hc (hok 0 Nat.two_pos) (hok 1 Nat.one_lt_two)

/-- BURST sends what FB holds, which the run has not changed since it began (R243). -/
theorem State.Reaches.burst (h : s.Reaches k x done es) (hs : s.Runs op)
    (hscript : done ++ [Instr.burst] <+: script s.cfg op) (hok : s.okFrom (answersUsed es) 2) :
    s.Reaches (k + 1) x (done ++ [Instr.burst]) (es ++ burstEvents s.cfg s.fbBytes) := by
  refine runSteps_succ_of_step h ((hs.step_reached hscript).trans ?_)
  rw [exec_burst_performs hs.reached.cur (State.okFrom_reached (fs := burstEvents s.cfg s.fbBytes) hok),
    State.reached_perform, State.reached_cfg, State.fbBytes_congr _ s State.reached_fb]

end

/-! ### The part RENDER and CLEAR share -/

/-- The steps of RENDER and CLEAR up to their wait, begun with `i`, the one that fills FB (R234, R235). -/
def refreshSteps (c : Config) (i : Instr) : List Instr :=
  [i] ++ [Instr.cmd c.ops.dataStartTransmission1] ++ [Instr.burst] ++ [Instr.cmd c.ops.displayRefresh, .dly settleMs]

theorem script_render (c : Config) : script c .render = refreshSteps c .pack ++ [Instr.wait] ++ [Instr.endOp] := rfl

theorem script_clear (c : Config) :
    script c .clear = refreshSteps c (.fill whiteByte) ++ [Instr.wait] ++ [Instr.endOp] := rfl

/-- The two commands and the burst use up two answers each, the delay none. -/
theorem answersUsed_refreshEvents (c : Config) (bs : List Byte) : answersUsed (refreshEvents c bs) = 6 := rfl

/-- DC stays at the level of the last command; RST is not driven. -/
theorem latchOf_dc_refreshEvents (c : Config) (l : Option Level) (bs : List Byte) :
    latchOf .dc l (refreshEvents c bs) = some c.cmdLevel := rfl

theorem latchOf_rst_refreshEvents (c : Config) (l : Option Level) (bs : List Byte) :
    latchOf .rst l (refreshEvents c bs) = l := rfl

/-- Once FB is filled, start, burst, refresh and the delay are run step by step. -/
theorem State.Reaches.refresh {op : HostOp} {s : State} {k : Nat} {x : CtrlState} {i : Instr} (h : s.Reaches k x [i] [])
    (hs : s.Runs op) (hscript : refreshSteps s.cfg i <+: script s.cfg op) (hok : s.okFrom 0 6) :
    s.Reaches (k + 4) x (refreshSteps s.cfg i) (refreshEvents s.cfg s.fbBytes) := by
  have hburst := script_begins hscript
  have hstart := script_begins hburst
  obtain ⟨hokStart, hokRest⟩ := State.okFrom_add (m := 2) (n := 4) hok
  obtain ⟨hokBurst, hokRefresh⟩ := State.okFrom_add (m := 2) (n := 2) hokRest
  exact h.stretch hs (.cons (.cmd _) .nil) hstart hokStart
    |>.burst hs hburst hokBurst
    |>.stretch hs (.cons (.cmd _) (.cons (.dly _) .nil)) hscript hokRefresh

/-- A launch of an operation that sends FB and succeeds after `j` busy readings: the block Idle in Ready with its own
scripts, the operation the host's oldest request, every answer ok, BUSY busy `j` times after the refresh and then idle,
`j` below the bound (R234, R235, R312). -/
structure State.RefreshLaunch (s : State) (op : HostOp) (j : Nat) (r : HostReq) (rest : List HostReq) : Prop where
  rom : s.romIntact
  idle : s.cur = none
  ready : s.st = .ready
  asked : s.hostq = r :: rest
  code : r.code = hostCode op
  ok : s.okFrom 0 6
  busy : s.busyFrom 6 j
  idleRead : s.idleAt (6 + j)
  bound : ∀ m, s.cfg.maxPolls = some m → j < m

/-- In the operation `op`, with the bitmap `bm` at the port, `i` stores `bs` in FB and does nothing else. -/
def StoresFb (op : HostOp) (bm : Bitmap) (i : Instr) (bs : List Byte) : Prop :=
  ∀ s : State, s.cur = some op → s.bm = bm → exec i s = .next { s.storeFb bs with upc := s.upc + 1 }

/-- A run is the same from two states that take the same step. -/
theorem runSteps_succ_congr {s t : State} (h : step s = step t) (n : Nat) : runSteps (n + 1) s = runSteps (n + 1) t := by
  simp only [runSteps, h]

section
variable {op : HostOp} {t : State} {i : Instr} {bs : List Byte}

/-- The first step of such an operation: FB is stored, and the script's first step is run. -/
theorem StoresFb.step_eq (h : StoresFb op t.bm i bs) (ht : t.Runs op) (hu : t.upc = 0)
    (hi : (script t.cfg op)[0]? = some i) : step t = .next ((t.storeFb bs).reached t.st [i] []) := by
  rw [step_of_script ht.rom ht.cur (by rwa [hu]), h t ht.cur rfl, hu]
  simp [State.reached, State.setControl, State.perform, State.setHistory, latchOf]

/-- It comes to the same where FB held the bytes already. -/
theorem StoresFb.step_storeFb (h : StoresFb op t.bm i bs) (ht : t.Runs op) (hu : t.upc = 0)
    (hi : (script t.cfg op)[0]? = some i) : step (t.storeFb bs) = step t := by
  have hfull : step (t.storeFb bs) = .next (((t.storeFb bs).storeFb bs).reached t.st [i] []) :=
    StoresFb.step_eq (t := t.storeFb bs) h ⟨ht.rom, ht.cur, ht.polls⟩ hu hi
  rw [hfull, State.storeFb_storeFb, h.step_eq ht hu hi]

end

@[simp] theorem State.accepted_fbBytes (s : State) (op : HostOp) (r : HostReq) (rest : List HostReq) :
    (s.accepted op r rest).fbBytes = s.fbBytes := rfl

@[simp] theorem State.storeFb_answerAt (s : State) (bs : List Byte) (k : Nat) :
    (s.storeFb bs).answerAt k = s.answerAt k :=
  State.answerAt_congr k _ s rfl rfl

section
variable {op : HostOp} {s : State} {j : Nat} {r : HostReq} {rest : List HostReq} {i : Instr} {bs : List Byte}

/-- Such a launch does not ask what FB holds. -/
theorem State.RefreshLaunch.storeFb (h : s.RefreshLaunch op j r rest) (bs : List Byte) :
    (s.storeFb bs).RefreshLaunch op j r rest where
  rom := h.rom
  idle := h.idle
  ready := h.ready
  asked := h.asked
  code := h.code
  ok := by simpa [State.okFrom] using h.ok
  busy := by simpa [State.busyFrom] using h.busy
  idleRead := by simpa [State.idleAt] using h.idleRead
  bound := h.bound

/-- Its first step accepts the operation (R232, R237). -/
theorem State.RefreshLaunch.step_eq (h : s.RefreshLaunch op j r rest) : step s = .next (s.accepted op r rest) :=
  step_accepts h.idle h.asked h.code (by simp [mayStart, h.ready])

theorem State.RefreshLaunch.runs (h : s.RefreshLaunch op j r rest) : (s.accepted op r rest).Runs op :=
  ⟨h.rom, rfl, rfl⟩

/-- Its run does not depend on what FB held before. -/
theorem State.RefreshLaunch.runSteps_storeFb (h : s.RefreshLaunch op j r rest)
    (hstores : StoresFb op (r.bm.getD s.bm) i bs) (hi : (script s.cfg op)[0]? = some i) (n : Nat) :
    runSteps (n + 2) (s.storeFb bs) = runSteps (n + 2) s := by
  rw [runSteps_succ (h.storeFb bs).step_eq, runSteps_succ h.step_eq]
  exact runSteps_succ_congr (StoresFb.step_storeFb (t := s.accepted op r rest) hstores h.runs rfl hi) n

/-- RENDER or CLEAR from acceptance to END, of a block whose FB holds already what the first step stores: FB is sent and
refreshed, then the wait. -/
theorem State.RefreshLaunch.runSteps_full (h : s.RefreshLaunch op j r rest)
    (hstores : StoresFb op (r.bm.getD s.bm) i bs) (hfull : s.storeFb bs = s)
    (hscript : script s.cfg op = refreshSteps s.cfg i ++ [Instr.wait] ++ [Instr.endOp]) :
    runSteps (8 + j) s = .next { s.consumeMany (7 + j) with
      cur := none
      upc := 0
      polls := 0
      dcLatch := some s.cfg.cmdLevel
      res := .ok
      trace := s.trace ++ refreshEvents s.cfg s.fbBytes ++ waitEvents s.cfg j
      hostq := rest
      bm := r.bm.getD s.bm } := by
  have hstart : (s.accepted op r rest).Reaches 1 s.st [i] [] := by
    have hi : (script s.cfg op)[0]? = some i := by rw [hscript]; rfl
    have hsame : (s.accepted op r rest).storeFb bs = s.accepted op r rest := congrArg (·.accepted op r rest) hfull
    have hstep := StoresFb.step_eq (t := s.accepted op r rest) hstores h.runs rfl hi
    rw [hsame] at hstep
    exact runSteps_succ hstep 0
  have hend : refreshSteps s.cfg i ++ [Instr.wait] ++ [Instr.endOp] <+: script s.cfg op := hscript ▸ List.prefix_rfl
  have hwait := script_begins hend
  have hrun := hstart.refresh h.runs (script_begins hwait) (by simpa [State.okFrom] using h.ok)
    |>.wait (j := j) h.runs hwait (by simpa [State.busyFrom, answersUsed_refreshEvents] using h.busy)
      (by simpa [State.idleAt, answersUsed_refreshEvents] using h.idleRead) h.bound
    |>.finish h.runs hend
  have hused (bs : List Byte) : answersUsed (refreshEvents s.cfg bs ++ waitEvents s.cfg j) = 7 + j := by
    rw [answersUsed_append, answersUsed_refreshEvents, answersUsed_waitEvents]
    omega
  rw [show 8 + j = 1 + 4 + (j + 1) + 1 + 1 by omega, runSteps_succ h.step_eq, hrun, State.accepted_reached_ended,
    State.accepted_cfg, hused]
  simp [latchOf_dc_refreshEvents, latchOf_rst_refreshEvents]

/-- RENDER or CLEAR from acceptance to END, whatever FB held: the bytes stored are those sent. -/
theorem State.RefreshLaunch.runSteps_eq (h : s.RefreshLaunch op j r rest)
    (hstores : StoresFb op (r.bm.getD s.bm) i bs) (hlen : bs.length = fbLen)
    (hscript : script s.cfg op = refreshSteps s.cfg i ++ [Instr.wait] ++ [Instr.endOp]) :
    runSteps (8 + j) s = .next { s.consumeMany (7 + j) with
      cur := none
      upc := 0
      polls := 0
      dcLatch := some s.cfg.cmdLevel
      fb := (s.storeFb bs).fb
      fbValid := true
      res := .ok
      trace := s.trace ++ refreshEvents s.cfg bs ++ waitEvents s.cfg j
      hostq := rest
      bm := r.bm.getD s.bm } := by
  have hconsume : (s.storeFb bs).consumeMany (7 + j) = (s.consumeMany (7 + j)).storeFb bs :=
    State.consumeMany_comm (f := (·.storeFb bs)) (fun _ => rfl) s _
  have hrun := (h.storeFb bs).runSteps_full hstores (s.storeFb_storeFb bs) hscript
  rw [show 8 + j = 6 + j + 2 by omega] at hrun ⊢
  rw [← h.runSteps_storeFb hstores (by rw [hscript]; rfl), hrun, hconsume, s.fbBytes_storeFb bs hlen]
  simp

end

/-! ### RENDER and CLEAR -/

/-- PACK stores the packed bitmap at the port. -/
theorem storesFb_pack {op : HostOp} {bm : Bitmap} (hw : bm.width = 640) (hh : bm.height = 384) :
    StoresFb op bm .pack ((List.range fbLen).map (packedByte bm)) := fun s hc hbm =>
  exec_pack_stores hc (by rw [hbm]; exact packBitmap_of_size hw hh)

/-- FILL stores copies of its byte. -/
theorem storesFb_fill (op : HostOp) (bm : Bitmap) (v : Byte) : StoresFb op bm (.fill v) (List.replicate fbLen v) :=
  fun _ hc _ => exec_fill_stores v hc

/-- Settles O43: RENDER's first step stores the packed bitmap (`storesFb_pack`), which is then sent. -/
theorem renderSendsPackedBitmap : Obligations.RenderSendsPackedBitmap := by
  intro j r rest s hrom hidle hready hasked hcode hw hh hok hbusy hidleRead hbound
  have hlaunch : s.RefreshLaunch .render j r rest :=
    ⟨hrom, hidle, hready, hasked, hcode, hok, hbusy, hidleRead, hbound⟩
  exact ⟨_, hlaunch.runSteps_eq (storesFb_pack hw hh) (by simp) (script_render s.cfg),
    fun _ => s.read_storeFb_packed _⟩

/-- Settles O44: CLEAR's first step stores white bytes (`storesFb_fill`), which are then sent. -/
theorem clearSendsWhiteWhateverFramebufferHeld : Obligations.ClearSendsWhiteWhateverFramebufferHeld := by
  intro j r rest s hrom hidle hready hasked hcode hok hbusy hidleRead hbound
  have hlaunch : s.RefreshLaunch .clear j r rest :=
    ⟨hrom, hidle, hready, hasked, hcode, hok, hbusy, hidleRead, hbound⟩
  exact ⟨_, hlaunch.runSteps_eq (storesFb_fill .clear _ whiteByte) List.length_replicate (script_clear s.cfg),
    fun _ => s.read_storeFb_replicate whiteByte⟩

/-! ### SLEEP -/

/-- The steps of SLEEP up to its END (R236). -/
def sleepSteps (c : Config) : List Instr :=
  [Instr.cmd c.ops.powerOff] ++ [Instr.wait] ++ [Instr.cmd c.ops.deepSleep, .dat c.pay.deepSleep] ++ [Instr.setst .asleep]

theorem script_sleep (c : Config) : script c .sleep = sleepSteps c ++ [Instr.endOp] := rfl

/-- The actions of a successful SLEEP: power off, the wait, deep sleep with its payload byte (R236). -/
def sleepEvents (c : Config) (j : Nat) : List Event :=
  commandEvents c c.ops.powerOff ++ waitEvents c j ++ (commandEvents c c.ops.deepSleep ++ dataEvents c c.pay.deepSleep)

theorem answersUsed_sleepEvents_wait (c : Config) (j : Nat) :
    answersUsed (commandEvents c c.ops.powerOff ++ waitEvents c j) = 3 + j := by
  rw [answersUsed_append, answersUsed_waitEvents, show answersUsed (commandEvents c c.ops.powerOff) = 2 from rfl]
  omega

theorem answersUsed_sleepEvents (c : Config) (j : Nat) : answersUsed (sleepEvents c j) = 7 + j := by
  rw [sleepEvents, answersUsed_append, answersUsed_sleepEvents_wait,
    show answersUsed (commandEvents c c.ops.deepSleep ++ dataEvents c c.pay.deepSleep) = 4 from rfl]
  omega

/-- DC stays at the level of the payload byte; RST is not driven. -/
theorem latchOf_dc_sleepEvents (c : Config) (l : Option Level) (j : Nat) :
    latchOf .dc l (sleepEvents c j) = some c.dataLevel := by
  rw [sleepEvents, latchOf_append]
  rfl

theorem latchOf_rst_sleepEvents (c : Config) (l : Option Level) (j : Nat) : latchOf .rst l (sleepEvents c j) = l := by
  rw [sleepEvents, latchOf_append, latchOf_append, latchOf_append, latchOf_waitEvents]
  rfl

/-- SLEEP run from its first step to its END. -/
theorem State.Runs.reaches_asleep {s : State} {j : Nat} (hs : s.Runs .sleep) (hu : s.upc = 0) (hok : s.okFrom 0 2)
    (hbusy : s.busyFrom 2 j) (hidleRead : s.idleAt (2 + j)) (hokAfter : s.okFrom (3 + j) 4)
    (hbound : ∀ m, s.cfg.maxPolls = some m → j < m) :
    s.Reaches (5 + j) .asleep (sleepSteps s.cfg) (sleepEvents s.cfg j) := by
  have hsetst : sleepSteps s.cfg <+: script s.cfg .sleep := ⟨[.endOp], rfl⟩
  have hdeep := script_begins hsetst
  have hwait := script_begins hdeep
  have hafter : s.okFrom (answersUsed (commandEvents s.cfg s.cfg.ops.powerOff ++ waitEvents s.cfg j)) 4 :=
    (answersUsed_sleepEvents_wait s.cfg j).symm ▸ hokAfter
  rw [show 5 + j = 0 + 1 + (j + 1) + 2 + 1 by omega]
  exact (State.reaches_start hu).stretch hs (.cons (.cmd _) .nil) (script_begins hwait) hok
    |>.wait hs hwait hbusy hidleRead hbound
    |>.stretch hs (.cons (.cmd _) (.cons (.dat _) .nil)) hdeep hafter
    |>.setst hs .asleep hsetst

/-- Settles O45: SLEEP is accepted in Ready and run to its END (`reaches_asleep`). -/
theorem sleepRunsToAsleep : Obligations.SleepRunsToAsleep := by
  intro j r rest s hrom hidle hready hasked hcode hok hbusy hidleRead hokAfter hbound
  have hs : (s.accepted .sleep r rest).Runs .sleep := ⟨hrom, rfl, rfl⟩
  have haccepts : step s = .next (s.accepted .sleep r rest) :=
    step_accepts hidle hasked hcode (by simp [mayStart, hready])
  have hrun := hs.reaches_asleep (j := j) rfl (by simpa [State.okFrom] using hok)
      (by simpa [State.busyFrom] using hbusy) (by simpa [State.idleAt] using hidleRead)
      (by simpa [State.okFrom] using hokAfter) hbound
    |>.finish hs (script_sleep s.cfg ▸ List.prefix_rfl)
  refine (congrArg (runSteps · s) (show 7 + j = 5 + j + 1 + 1 by omega)).trans
    ((runSteps_succ haccepts _).trans (hrun.trans ?_))
  rw [State.accepted_reached_ended, State.accepted_cfg, answersUsed_sleepEvents, latchOf_dc_sleepEvents,
    latchOf_rst_sleepEvents]
  simp [sleepEvents]

end Sys2Proof.Machine
end

section
/-! PROOFS. Exceptions (spec/60_exceptions.md): what an instruction may raise and why (`Cause`), that every exception is the
one entry of R280 taken after the step's own writes (`exec_raises`), and the obligations read off these two. -/

namespace Sys2Proof.Machine

/-! ### The causes of an exception -/

/-- A transport action and the entry of `trace` that says the transport failed it (R272, R273). -/
inductive Action.FailedAs : Action → Event → Prop
  | setPin (p : OutPin) (l : Level) : FailedAs (.setPin p l) (.setPin p l false)
  | readPin : FailedAs .readPin (.readPin none)
  | txByte (b : Byte) : FailedAs (.txByte b) (.txByte b false)
  | txBurst (bs : List Byte) (k : Nat) (hk : k < max 1 bs.length) : FailedAs (.txBurst bs) (.txBurst bs (some k))

/-- The instructions that do a transport action that can fail (R276, R272): all steps and frames but DLY, PACK, FILL, SETST
and END. -/
def canLoseAction : Instr → Bool
  | .dly _ | .pack | .fill _ | .setst _ | .endOp | .hostInitialize | .hostRender | .hostClear | .hostSleep => false
  | _ => true

/-- Why the instruction records an exception of the operation `op` in state `s` (R272, R274, R275); `tr` is the trace it
leaves. -/
inductive Cause (op : HostOp) (s : State) (tr : List Event) : Instr → Exc → Prop
  | actionLost (i : Instr) (hi : canLoseAction i = true) (a : Action) (ev : Event) (hlast : tr.getLast? = some ev)
      (hfailed : a.FailedAs ev) : Cause op s tr i (.transportFailure op s.upc a)
  | boundReached : Cause op s tr .wait (.timeout op s.upc (s.polls + 1))
  | badDimensions : Cause op s tr .pack (.wrongDimensions s.bm.width s.bm.height)
  | badState (hm : mayStart op s.st = false) : Cause op s tr (.ofHostOp op) (.wrongState op s.st)

theorem canLoseAction_of_sendsByte {c : Config} {i : Instr} {l : Level} {b : Byte} (h : sendsByte c i = some (l, b)) :
    canLoseAction i = true := by
  rcases sendsByte_some h with ⟨_, rfl | ⟨n, rfl, _⟩⟩ | ⟨_, rfl | rfl⟩
  · rfl
  · cases n <;> rfl
  · rfl
  · rfl

/-! ### Every exception is an entry of R280 -/

/-- `a` is a state an instruction may reach from `s` before its exception is taken: it may have written `trace`, the latches
and `polls` and used up answers. `cur`, `upc` and `res` are not listed, because the entry writes them (R280). -/
structure KeptUntilRaise (s a : State) : Prop where
  st : a.st = s.st := by simp
  fb : a.fb = s.fb := by simp
  fbValid : a.fbValid = s.fbValid := by simp
  faults : a.faults = s.faults := by simp
  cfg : a.cfg = s.cfg := by simp
  rom : a.rom = s.rom := by simp
  hostq : a.hostq = s.hostq := by simp
  bm : a.bm = s.bm := by simp

/-- `t` is the entry of an exception of `op` (R280), from a state where only the step's own writes were done, with its
cause. -/
def Raised (op : HostOp) (s : State) (i : Instr) (t : State) : Prop :=
  ∃ e a, t = raiseExc op e a ∧ KeptUntilRaise s a ∧ Cause op s t.trace i e

/-- A step or frame records nothing, or it ends in the entry of an exception. -/
theorem ran_raises {op : HostOp} {s t : State} {i : Instr} (h : Ran op s i t) :
    t.faults = s.faults ∨ Raised op s i t := by
  cases h
  case sent | burstSent | driven | delayed | packed | filled | stateSet | ended | idle | busy => exact .inl (by simp)
  case byteLost l b _ _ hi =>
    exact .inr ⟨_, _, rfl, {}, .actionLost _ (canLoseAction_of_sendsByte hi) _ _ (by simp) (.txByte b)⟩
  case selectLost l b _ hi =>
    exact .inr ⟨_, _, rfl, {}, .actionLost _ (canLoseAction_of_sendsByte hi) _ _ (by simp) (.setPin .dc l)⟩
  case burstLost k hk _ _ =>
    have hk' : k < max 1 s.fbBytes.length := by rw [State.fbBytes_length]; omega
    exact .inr ⟨_, _, rfl, {}, .actionLost _ rfl _ _ (by simp) (.txBurst _ k hk')⟩
  case burstSelectLost => exact .inr ⟨_, _, rfl, {}, .actionLost _ rfl _ _ (by simp) (.setPin .dc _)⟩
  case pinLost p l _ => exact .inr ⟨_, _, rfl, {}, .actionLost _ rfl _ _ (by simp) (.setPin p l)⟩
  case readLost => exact .inr ⟨_, _, rfl, {}, .actionLost _ rfl _ _ (by simp) .readPin⟩
  case timedOut => exact .inr ⟨_, _, rfl, {}, .boundReached⟩
  case rejected => exact .inr ⟨_, _, rfl, {}, .badDimensions⟩

/-- An instruction records nothing, or it ends in the entry of an exception: of the operation in progress, or of the
operation that was not accepted. -/
theorem exec_raises {i : Instr} {s t : State} (h : exec i s = .next t) :
    t.faults = s.faults ∨ ∃ op, (∀ o, s.cur = some o → op = o) ∧ Raised op s i t := by
  rcases exec_ran h with ⟨op, rfl, hidle, ⟨_, rfl⟩ | ⟨hm, rfl⟩⟩ | ⟨op, hcur, hr⟩
  · exact .inl rfl
  · exact .inr ⟨op, by simp [hidle], _, _, rfl, {}, .badState hm⟩
  · exact (ran_raises hr).imp_right fun hraised => ⟨op, by simp [hcur], hraised⟩

/-- A record an instruction appends has its cause. -/
theorem exec_records {i : Instr} {s t : State} {op : HostOp} {e : Exc} (h : exec i s = .next t)
    (hf : t.faults = s.faults ++ [{ op := op, exc := e }]) : Cause op s t.trace i e := by
  rcases exec_raises h with hnone | ⟨o, _, e', a, rfl, hkept, hcause⟩
  · simp [hnone] at hf
  · simp only [raiseExc_faults, hkept.faults, List.append_cancel_left_eq, List.cons.injEq, FaultRec.mk.injEq,
      and_true] at hf
    obtain ⟨rfl, rfl⟩ := hf
    exact hcause

/-- Only the class PreconditionViolation, code 2, leaves `st` (R271, R280). -/
theorem Exc.resetsState_iff (e : Exc) : e.resetsState = true ↔ e.code ≠ 2#2 := by
  cases e <;> simp [Exc.resetsState, Exc.code]

/-! ### The obligations -/

/-- Settles O21: what is recorded is the entry of R280 (`exec_raises`), taken where only the step's own writes were done. -/
theorem exceptionEntryIsUniform : Obligations.ExceptionEntryIsUniform := by
  intro i s t h hne
  obtain ⟨op, hop, e, a, rfl, hkept, _⟩ := (exec_raises h).resolve_left hne
  refine ⟨op, e, ?_, rfl, ?_, hop, rfl, rfl, rfl, hkept.fb, hkept.fbValid, hkept.cfg, hkept.rom, hkept.hostq, hkept.bm⟩
  · rw [raiseExc_faults, hkept.faults]
  · simp only [raiseExc_st, Exc.resetsState_iff, hkept.st, ite_not]

/-- Settles O22: each cause names the instructions it can arise in (`exec_records`). -/
theorem whichInstructionRaisesWhat : Obligations.WhichInstructionRaisesWhat := by
  intro i s t op e h hf
  cases exec_records h hf with
  | boundReached => exact .inr rfl
  | badDimensions => rfl
  | badState hm =>
    cases op
    case init => cases hm
    case render | clear | sleep => rfl
  | actionLost _ hi =>
    cases i
    case dly | pack | fill | setst | endOp | hostInitialize | hostRender | hostClear | hostSleep => cases hi
    case wait => exact .inl rfl
    all_goals rfl

/-- Settles O23: of the causes only a lost action is a TransportFailure, and it stands last in the trace. -/
theorem transportFailureFollowsFailedAction : Obligations.TransportFailureFollowsFailedAction := by
  intro i s t op o u a h hf
  cases exec_records h hf with
  | actionLost _ _ _ _ hlast hfailed =>
    refine ⟨rfl, rfl, ?_⟩
    cases hfailed with
    | setPin | readPin | txByte => exact hlast
    | txBurst _ k hk => exact ⟨k, hlast, hk⟩

/-- Settles O16: outside Ready only INITIALIZE may start, and WrongState leaves `st`. -/
theorem operationsOutsideReadyRejected : Obligations.OperationsOutsideReadyRejected := by
  intro op s hidle hst hop
  have hm : mayStart op s.st = false := by simp [mayStart, hop, hst]
  rw [exec_ofHostOp, issue_rejected hidle hm]
  simp [raiseExc, Exc.resetsState, hidle]

end Sys2Proof.Machine
end

section
/-! PROOFS. A host operation asked for while another is in progress (spec R322, decision D24). -/

namespace Sys2Proof.Machine

/-- The port's third answer beside `issue_accepted` and `issue_rejected`: whatever `st` allows, a busy block starts nothing. -/
theorem issue_refused {s : State} {running : HostOp} (op : HostOp) (hbusy : s.cur = some running) :
    issue op s = .refused .hostBusy := by
  simp only [issue, hbusy]

/-- Settles O17: a host operation executes as `issue`, which an operation in progress makes refuse. -/
theorem operationWhileBusyRefused : Obligations.OperationWhileBusyRefused := by
  intro op running s hbusy
  rw [exec_ofHostOp, issue_refused op hbusy]

end Sys2Proof.Machine
end
